-- ==== Sys2Proof/Word.lean ====
section
/-! DEFINITION. The bit widths the spec names (00_scope.md R9, R10). -/

namespace Sys2Proof

/-- `u8`: a byte on the wire, in a buffer or in a working register. -/
abbrev Byte := BitVec 8

/-- `u16` or `s16`: a whole field of the register map. -/
abbrev Half := BitVec 16

/-- `w32`: a 32-bit pattern with no arithmetic meaning (a sensor word). -/
abbrev Word := BitVec 32

end Sys2Proof
end

