-- ==== Sys2Proof/Config.lean ====
section
/-! DEFINITION. The constants the source fixes (00_scope.md R7), the parameters it leaves open (R8), and the free
values (93_implementation_defined.md U1, U3, U4), among them the order in which the agents move (60_exceptions.md R240
to R245). -/

namespace Sys2Proof

/-- `SYNC`, both start bytes (R7). -/
abbrev Config.sync : Byte := 0xFF

/-- `DEVICE_ID` (R7, R38). -/
abbrev Config.deviceId : Byte := 0x01

/-- The instruction byte of `INST_CONTROL` (R7). -/
abbrev Config.instControl : Byte := 0x01

/-- Bytes of a control payload, `CTRL_LEN - 2 = 24` (R7, R82). -/
abbrev Config.ctrlPayloadLen : Nat := 24

/-- `GOAL_MAX` (R7). -/
abbrev Config.goalMax : Half := 1023

/-- `GOAL_RESET` (R7). -/
abbrev Config.goalReset : Half := 512

/-- `STATUS_OK` (R7). -/
abbrev Config.statusOk : Byte := 0x00

/-- `REPLY_LEN` (R7). -/
abbrev Config.replyLen : Byte := 0x46

/-- `REPLY_BYTES`, the size of `tx_buf` (R7, R29). -/
abbrev Config.replyBytes : Nat := 74

/-- The default of `CAP` (R8, D3). -/
abbrev Config.capDefault : Nat := 128

/-- `POSITION_POLICY` (R8): what happens to a goal position above 1023. -/
inductive PositionPolicy where
  | clamp
  | reject
deriving DecidableEq, Repr

/-- The named parameters of R8, fixed for one machine. They stand in State so that a claim about every state is a claim
about every parameter value. DESIGN CHOICE (log 3). -/
structure Params where
  cap         : Nat
  policy      : PositionPolicy
  torqueReset : BitVec 1
deriving DecidableEq, Repr

/-- The constraint R8 puts on `CAP`: `30 <= CAP <= 259`. -/
def Params.wf (p : Params) : Bool := decide (30 ≤ p.cap ∧ p.cap ≤ 259)

/-- The five sensor inputs (10_state.md R44), in the order GATHER reads them (43_reply_frame.md R193). -/
inductive Sensor where
  | imuRoll
  | imuPitch
  | imuYaw
  | pwrVoltage
  | pwrCurrent
deriving DecidableEq, Repr

/-- The three telemetry fields whose reset value is unspecified (10_state.md R49). -/
inductive Telemetry where
  | position
  | velocity
  | load
deriving DecidableEq, Repr

/-- Free value: `TORQUE_RESET`, an OPEN parameter (R8, U4). Log 3. -/
opaque Config.torqueReset : BitVec 1

/-- Free value: the reset draw of one telemetry field (R49, U1). The last argument is the number of the draw. Log 4. -/
opaque Config.presentReset : Telemetry → Nat → Half

/-- Free value: one read of one sensor input (R44, R244, U3). The last argument is the number of the draw. Log 5. -/
opaque Config.sensorDraw : Sensor → Nat → Word

/-! ### The turns of the agents -/

namespace Machine

/-- One request on register-map port B (R46). -/
structure BusRequest where
  we    : Bool
  addr  : BitVec 7
  wdata : Half
deriving DecidableEq, Repr

/-- One turn of one agent (60_exceptions.md R240 to R245). DESIGN CHOICE (log 1): the order in which agents step is
plain data. -/
inductive Turn where
  /-- The block core takes its enabled step, if it has one (R241). -/
  | core
  /-- The host receive source offers one more byte (R40, R242). -/
  | offerByte (b : Byte)
  /-- The host transmit sink drives `tx_ready` (R41, R242). -/
  | setTxReady (v : Bool)
  /-- One assertion of `rx_timeout` (R42, R242). -/
  | timeout
  /-- One port-B access of the bus-service agent (R243). -/
  | bus (r : BusRequest)
  /-- `admin_enable` is driven to a level (R43, R245). -/
  | setAdminEnable (v : Bool)
  /-- The environment fixes the next sensor draw that is not fixed yet (R44, R244). -/
  | fixSensor (w : Word)
  /-- `rst` is asserted (70_reset_and_hazards.md R260). -/
  | reset
deriving DecidableEq, Repr, Inhabited

/-- A schedule without end, as plain data: what the agents do after the turns that are listed one by one (R242: the
receive source offers any byte sequence, finite or infinite). DESIGN CHOICE (log 2). -/
inductive Schedule where
  /-- The environment is silent and the core alone moves. -/
  | quiet
  /-- These turns, the first one first, over and over. -/
  | cycle (t : Turn) (ts : List Turn)
  /-- Free turns, from the one numbered `n` on: an arbitrary infinite sequence. -/
  | free (n : Nat)
deriving DecidableEq, Repr

end Machine

/-- Free value: turn number `n` of a schedule that nothing constrains (R240, R242). Log 2. -/
opaque Config.freeTurn : Nat → Machine.Turn

/-- The parameters of the machine after `State.reset`: the defaults the spec takes (R8), `TORQUE_RESET` free. -/
def Params.default : Params :=
  { cap := Config.capDefault, policy := .clamp, torqueReset := Config.torqueReset }

end Sys2Proof
end

