-- ==== Sys2Proof/Syntax.lean ====
section
/-! DEFINITION. The instructions: one constructor per row of spec/opcode_table.json. An instruction is what the frame's
instruction byte and payload say (30_encoding.md R81, R88); sync, id, length and checksum belong to the frame. -/

namespace Sys2Proof

/-- The operands of a control frame (42_dispatcher.md R162): twelve goals when the frame length is 26, else a payload of
another length, which R163 answers without examining. -/
inductive ControlOperand where
  /-- `L = 26`: goal `k` commands register-map record `k` (30_encoding.md R85). -/
  | goals (g : Vector Half 12)
  /-- `L ≠ 26`: the payload bytes as received (R163). -/
  | wrongLength (payload : List Byte)
deriving DecidableEq, Repr

/-- The instruction set (30_encoding.md R88). -/
inductive Instr where
  /-- `INST_CONTROL`, instruction byte `0x01` (R162). -/
  | instControl (op : ControlOperand)
  /-- `INST_OTHER`, any other instruction byte, with a payload that is not examined (R170). -/
  | instOther (instr : Byte) (payload : List Byte)
deriving DecidableEq, Repr

end Sys2Proof
end

