-- ==== Sys2Proof/WellFormed.lean ====
section
/-! DEFINITION. Which instructions have a frame that a block of capacity `cap` accepts (30_encoding.md R82, R88, R91). -/

namespace Sys2Proof

/-- A payload of `n` bytes fits: `L = n + 2` is a byte, and the `L + 4` bytes of the frame fit the buffer (R82). -/
def payloadFits (cap n : Nat) : Bool := decide (n + 2 < 256 ∧ n + 6 ≤ cap)

/-- The operands a control frame of capacity `cap` can carry. -/
def ControlOperand.wf (cap : Nat) : ControlOperand → Bool
  | .goals _ => payloadFits cap Config.ctrlPayloadLen
  | .wrongLength p => payloadFits cap p.length && decide (p.length ≠ Config.ctrlPayloadLen)

/-- The instruction has an accepted frame, and no other instruction has the same one. -/
def Instr.wf (cap : Nat) : Instr → Bool
  | .instControl op => op.wf cap
  | .instOther i p => payloadFits cap p.length && decide (i ≠ Config.instControl)

end Sys2Proof
end

