-- ==== Sys2Proof/Decode.lean ====
section
/-! DEFINITION. Frames: the checksum codec (40_checksum.md), byte order, the frame decoder over a list of bytes
(30_encoding.md R81 to R94), and after it the encoder. The byte-by-byte machine of 41_frame_decoder.md stands in
Machine/FrameDecoder.lean and dispatches through `instrOfBody`. -/

namespace Sys2Proof

/-- Twelve values, one per servo index, as a vector. -/
def tabulate12 {α : Type} (f : Fin 12 → α) : Vector α 12 :=
  #v[f 0, f 1, f 2, f 3, f 4, f 5, f 6, f 7, f 8, f 9, f 10, f 11]

/-! ### Checksum codec -/

/-- `sum8`: the bytes' sum modulo 256 (00_scope.md R10). -/
def sum8 : List Byte → Byte
  | [] => 0
  | b :: bs => b + sum8 bs

/-- `compute`: the complement of the modulo-256 sum (40_checksum.md R100). -/
def compute (bs : List Byte) : Byte := ~~~ (sum8 bs)

/-- `verify` on a frame from its id through its checksum: the stored last byte is `compute` of the bytes before it (R101). -/
def verify (bs : List Byte) : Bool :=
  match bs.reverse with
  | [] => false
  | c :: covered => decide (c = compute covered.reverse)

/-! ### Byte order (20_memory.md R70): the byte with bits 7:0 goes first -/

/-- `{hi, lo}` as a u16 (R10, R85). -/
def half (lo hi : Byte) : Half := hi ++ lo

/-- `v[7:0]`, then `v[15:8]` (R87). -/
def halfBytes (v : Half) : List Byte := [v.extractLsb' 0 8, v.extractLsb' 8 8]

/-- `w[7:0]`, `w[15:8]`, `w[23:16]`, `w[31:24]` (R87). -/
def wordBytes (w : Word) : List Byte :=
  [w.extractLsb' 0 8, w.extractLsb' 8 8, w.extractLsb' 16 8, w.extractLsb' 24 8]

/-- Goal `k` is payload bytes `2k` and `2k + 1` (R85, R164). -/
def goalsOfPayload (p : List Byte) : Vector Half 12 :=
  tabulate12 fun k => half (p.getD (2 * k.val) 0) (p.getD (2 * k.val + 1) 0)

/-- The 24 payload bytes of twelve goals (R84). -/
def payloadOfGoals (g : Vector Half 12) : List Byte := g.toList.flatMap halfBytes

/-! ### Decoding -/

/-- Why a byte sequence is no frame for this device; each is an outcome of 60_exceptions.md R220 or missing bytes. -/
inductive DecodeError where
  | badSync
  | wrongId (id : Byte)
  | tooShort (len : Byte)
  | tooLong (len : Byte)
  | truncated
  | checksumMismatch (stored : Byte)
deriving DecidableEq, Repr

/-- A decoded instruction with the bytes after its frame, or a rejection by name. -/
inductive DecodeResult where
  | ok (i : Instr) (rest : List Byte)
  | error (e : DecodeError)
deriving DecidableEq, Repr

/-- Instruction decode (42_dispatcher.md R161, R164): all eight bits of the instruction byte are compared, and a control
payload of 24 bytes is twelve goals. -/
def instrOfBody (instr : Byte) (payload : List Byte) : Instr :=
  if instr = Config.instControl then
    .instControl
      (if payload.length = Config.ctrlPayloadLen then .goals (goalsOfPayload payload) else .wrongLength payload)
  else .instOther instr payload

/-- The bytes a checksum covers (30_encoding.md R83). -/
def covered (id len instr : Byte) (payload : List Byte) : List Byte := id :: len :: instr :: payload

/-- The instruction, payload and checksum bytes of a frame with an accepted header (R81, R82, R160). -/
def decodeBody (id len : Byte) : List Byte → DecodeResult
  | [] => .error .truncated
  | instr :: tail =>
    let n := len.toNat - 2
    let payload := tail.take n
    match tail.drop n with
    | [] => .error .truncated
    | chk :: rest =>
      if chk = compute (covered id len instr payload) then .ok (instrOfBody instr payload) rest
      else .error (.checksumMismatch chk)

/-- One whole frame at the head of `bytes`, for a block of capacity `cap`: sync, id, length, then the body (R81, R90,
R91, R93). -/
def decode (cap : Nat) : List Byte → DecodeResult
  | s0 :: s1 :: id :: len :: body =>
    if s0 ≠ Config.sync ∨ s1 ≠ Config.sync then .error .badSync
    else if id ≠ Config.deviceId then .error (.wrongId id)
    else if len.toNat < 2 then .error (.tooShort len)
    else if cap < len.toNat + 4 then .error (.tooLong len)
    else decodeBody id len body
  | _ => .error .truncated

/-! ### Encoding -/

/-- A frame for this device with the given instruction byte and payload (R81 to R83, the `FRAME` notation of R95). -/
def frame (instr : Byte) (payload : List Byte) : List Byte :=
  let len := BitVec.ofNat 8 (payload.length + 2)
  [Config.sync, Config.sync, Config.deviceId, len, instr] ++ payload
    ++ [compute (covered Config.deviceId len instr payload)]

/-- The instruction byte (R88). -/
def Instr.byte : Instr → Byte
  | .instControl _ => Config.instControl
  | .instOther i _ => i

/-- The payload bytes (R84). -/
def Instr.payload : Instr → List Byte
  | .instControl (.goals g) => payloadOfGoals g
  | .instControl (.wrongLength p) => p
  | .instOther _ p => p

/-- The frame of an instruction. -/
def encode (i : Instr) : List Byte := frame i.byte i.payload

/-! ### The opcode table's words -/

/-- The body of the frame for a table word: the instruction byte is bits 7:0, the payload's bytes follow, and every bit
from `nbits` up is zero. -/
def tableByte (nbits w j : Nat) : Byte := BitVec.ofNat 8 ((w % 2 ^ nbits) >>> (8 * j))

/-- The frame a table word stands for: a payload of 24 bytes, the length `INST_CONTROL` needs (log 14). -/
def tableFrame (nbits w : Nat) : List Byte :=
  frame (tableByte nbits w 0) ((List.range Config.ctrlPayloadLen).map fun j => tableByte nbits w (j + 1))

/-- The instruction the decoder reads from a table word. -/
def decodeTableWord (nbits w : Nat) : Option Instr :=
  match decode Config.capDefault (tableFrame nbits w) with
  | .ok i _ => some i
  | .error _ => none

end Sys2Proof
end

