-- ==== Sys2Proof/Machine/State.lean ====
section
/-! DEFINITION. The state of the framing block (10_state.md R20 to R49), of its environment as plain data
(60_exceptions.md R240 to R245), the reasons a step can stop, and the state after reset. -/

namespace Sys2Proof.Machine

/-- `dec.state` (R21): six values; the encodings 6 and 7 do not exist (U11). -/
inductive DecState where
  | awaitSync1
  | awaitSync2
  | awaitId
  | awaitLength
  | accumulatePayload
  | done
deriving DecidableEq, Repr

/-- `seq.phase` (R27): seven values; the encoding 7 does not exist (U11). -/
inductive Phase where
  | idle
  | validate
  | write
  | gather
  | seal
  | emit
  | clear
deriving DecidableEq, Repr

/-- The ten outcome codes that are emitted (60_exceptions.md R220, U8). `NONE` is `none` of `seq.outcome`. -/
inductive OutcomeCode where
  | controlApplied
  | controlNotApplied
  | checksumMismatch
  | unknownInstruction
  | invalidPayloadLength
  | positionOutOfRange
  | headerRejectedId
  | headerRejectedLong
  | headerRejectedShort
  | frameTruncated
deriving DecidableEq, Repr

/-- One event on the outcome port (R45, R221). -/
structure Event where
  code : OutcomeCode
  arg  : Byte
deriving DecidableEq, Repr

/-- The decoder session without its buffer (R21 to R25). -/
structure Decoder where
  state  : DecState
  idReg  : Byte
  lenReg : Byte
  count  : Byte
  acc    : Byte
deriving DecidableEq, Repr

/-- The transaction sequencer (R27, R28). -/
structure Sequencer where
  phase     : Phase
  k         : BitVec 7
  outcome   : Option OutcomeCode
  arg       : Byte
  goalStage : Vector Half 12
deriving DecidableEq, Repr

/-- One servo record (R30 to R36). `id` is hard-wired to `k + 1` and has no storage (R31). -/
structure Servo where
  torqueSwitch    : BitVec 1
  goalPosition    : Half
  presentPosition : Half
  presentVelocity : Half
  presentLoad     : Half
deriving DecidableEq, Repr

/-- A byte buffer as address and byte pairs, addresses rising, no zero byte listed; an unlisted address reads as zero
(log 7, log 8). -/
abbrev Memory := List Host.Cell

/-- What the environment holds at the ports, and what its agents do next. -/
structure Env where
  /-- Bytes offered and not yet taken, oldest first: `rx_valid` is that there is one, `rx_data` is the first (R40). -/
  rxLine      : List Byte
  txReady     : Bool
  adminEnable : Bool
  /-- Sensor draws the environment has fixed, next first; past them a draw is free (log 5). -/
  sensorFeed  : List Word
  /-- The turns to come, next first (log 1). -/
  script      : List Turn
  /-- The turns after those of `script`, without end (log 2). -/
  later       : Schedule
deriving DecidableEq, Repr

/-- The whole machine. -/
structure State where
  params : Params
  dec    : Decoder
  /-- `rx_buf` (R26). -/
  rxBuf  : Memory
  seq    : Sequencer
  /-- `tx_buf` (R29). -/
  txBuf  : Memory
  /-- The register map (R30). -/
  reg    : Vector Servo 12
  env    : Env
  /-- The outcome port in the step just taken: `some` is `evt_valid = 1` (R45). -/
  evt    : Option Event
  /-- `b_rdata` in the step just taken, if it was a port-B read (R46). -/
  bRdata : Option Half
  /-- Observation: every outcome event so far, oldest first (R221). No rule reads it. -/
  events : List Event
  /-- Observation: every byte that passed the transmit port, oldest first (R41). No rule reads it. -/
  sent   : List Byte
  /-- The model's own counter of free draws (log 6). -/
  draws  : Nat
deriving DecidableEq, Repr

/-- Why the machine stops. The spec has no fault (R233): both are raised only in states no run reaches, and both are
safe, since the machine stops where the spec says nothing. -/
inductive Fault where
  /-- The decoder or VALIDATE would index `rx_buf` at or above `CAP` (R61). Raised by the byte step and the VALIDATE
  step. Safe (log 8). -/
  | rxIndexOutOfRange
  /-- `seq.k` is outside the range its phase gives it (R27). Raised by the WRITE, GATHER and EMIT steps. Safe (log 9). -/
  | phaseIndexOutOfRange
deriving DecidableEq, Repr

/-- Why an instruction has no meaning in the model. -/
inductive Refusal where
  /-- No meaning yet. Raised by an arm of `exec` only; safe. No arm raises it. -/
  | notModelled (mnemonic : String)
deriving DecidableEq, Repr

/-! ### Reset -/

/-- The decoder after reset (R49). -/
def Decoder.reset : Decoder := { state := .awaitSync1, idReg := 0, lenReg := 0, count := 0, acc := 0 }

/-- The sequencer after reset (R49); `goal_stage` is unspecified and zero here (U2, log 7). -/
def Sequencer.reset : Sequencer :=
  { phase := .idle, k := 0, outcome := none, arg := 0, goalStage := Vector.replicate 12 0 }

/-- Record `k` after reset (R49): the telemetry fields are draws `n + 3k` to `n + 3k + 2` (U1, log 4). -/
def Servo.reset (p : Params) (n : Nat) (k : Fin 12) : Servo :=
  { torqueSwitch := p.torqueReset
    goalPosition := Config.goalReset
    presentPosition := Config.presentReset .position (n + 3 * k.val)
    presentVelocity := Config.presentReset .velocity (n + 3 * k.val + 1)
    presentLoad := Config.presentReset .load (n + 3 * k.val + 2) }

/-- The environment before anything happens (log 2): nothing offered, no turn of another agent planned, `tx_ready` and
`admin_enable` at the levels 95_test_vectors.md takes unless it says otherwise. -/
def Env.quiet : Env :=
  { rxLine := [], txReady := true, adminEnable := true, sensorFeed := [], script := [], later := .quiet }

/-- The machine right after reset (R49, R261), with the default parameters; draws 0 to 35 are used up (log 6). -/
def State.reset : State :=
  { params := Params.default
    dec := Decoder.reset
    rxBuf := []
    seq := Sequencer.reset
    txBuf := []
    reg := tabulate12 (Servo.reset Params.default 0)
    env := Env.quiet
    evt := none
    bRdata := none
    events := []
    sent := []
    draws := 36 }

end Sys2Proof.Machine
end

