-- ==== Sys2Proof/Machine/Ops.lean ====
section
/-! DEFINITION. The named operations over the buffers, the register map, the decoder session and the ports. The block has
no exception to take and none to return from (60_exceptions.md R238, R239): what it has instead is `emitOutcome` after
`resync`, the shared operation `rejectFrame`. -/

namespace Sys2Proof.Machine

/-! ### Byte buffers (20_memory.md R60 to R62) -/

/-- The byte at an address; an unlisted address reads as zero (log 7). -/
def Memory.read : Memory → Nat → Byte
  | [], _ => 0
  | (b, w) :: t, a => if a = b then w else Memory.read t a

/-- Write one byte and keep the canonical form: writing zero removes the entry. -/
def Memory.write : Memory → Nat → Byte → Memory
  | [], a, v => if v = 0 then [] else [(a, v)]
  | (b, w) :: t, a, v =>
    if a < b then (if v = 0 then (b, w) :: t else (a, v) :: (b, w) :: t)
    else if a = b then (if v = 0 then t else (a, v) :: t)
    else (b, w) :: Memory.write t a v

/-- Every address listed is above `lo`, they rise, and no listed byte is zero. -/
def Memory.wfFrom : Option Nat → Memory → Bool
  | _, [] => true
  | lo, (b, w) :: t => (lo.all fun l => decide (l < b)) && decide (w ≠ 0) && Memory.wfFrom (some b) t

/-- The canonical form of a buffer: equal buffers are equal lists. -/
def Memory.wf (m : Memory) : Bool := Memory.wfFrom none m

/-- Consecutive bytes, written from address `a` up. -/
def Memory.storeBytes : Memory → Nat → List Byte → Memory
  | m, _, [] => m
  | m, a, b :: bs => Memory.storeBytes (m.write a b) (a + 1) bs

/-- The `n` bytes from address `a` up. -/
def Memory.slice (m : Memory) (a n : Nat) : List Byte := (List.range n).map fun i => m.read (a + i)

/-- `rx_buf[i] <- b` (R11). -/
def State.writeRx (s : State) (i : Nat) (b : Byte) : State := { s with rxBuf := s.rxBuf.write i b }

/-- `tx_buf[i], tx_buf[i+1], ... <- bs` (R11). -/
def State.storeTx (s : State) (i : Nat) (bs : List Byte) : State := { s with txBuf := s.txBuf.storeBytes i bs }

/-! ### The register map (10_state.md R30 to R37, 20_memory.md R64 to R66) -/

/-- `REG.id[k]`, hard-wired to `k + 1` (R31). -/
def servoId (k : Fin 12) : Byte := BitVec.ofNat 8 (k.val + 1)

/-- Replace record `k`. -/
def State.setServo (s : State) (k : Fin 12) (v : Servo) : State := { s with reg := s.reg.set k.val v k.isLt }

/-- `REG.goal_position[k] <- v`, the one write path of port A (R37, R168). -/
def State.writeGoal (s : State) (k : Fin 12) (v : Half) : State :=
  s.setServo k { s.reg[k] with goalPosition := v }

/-- The servo index of a port-B address, `b_addr[6:3]` (R64). -/
def busIndex (addr : BitVec 7) : Nat := (addr.extractLsb' 3 4).toNat

/-- The field selector of a port-B address, `b_addr[2:0]` (R64). -/
def busField (addr : BitVec 7) : Nat := (addr.extractLsb' 0 3).toNat

/-- What a port-B read of one field of record `k` returns (R64). -/
def readField (r : Servo) (k : Fin 12) : Nat → Half
  | 0 => (servoId k).setWidth 16
  | 1 => r.torqueSwitch.setWidth 16
  | 2 => r.goalPosition
  | 3 => r.presentPosition
  | 4 => r.presentVelocity
  | 5 => r.presentLoad
  | _ => 0

/-- What a port-B write leaves in the record: only the telemetry fields take it (R64, R65). -/
def writeField (r : Servo) (v : Half) : Nat → Servo
  | 3 => { r with presentPosition := v }
  | 4 => { r with presentVelocity := v }
  | 5 => { r with presentLoad := v }
  | _ => r

/-- A port-B read; an index of 12 or more touches no record and gives zero (R65). -/
def State.busRead (s : State) (addr : BitVec 7) : Half :=
  if h : busIndex addr < 12 then readField s.reg[busIndex addr] ⟨busIndex addr, h⟩ (busField addr) else 0

/-- A port-B write; an index of 12 or more has no effect (R65). -/
def State.busWrite (s : State) (addr : BitVec 7) (v : Half) : State :=
  if h : busIndex addr < 12 then
    s.setServo ⟨busIndex addr, h⟩ (writeField s.reg[busIndex addr] v (busField addr))
  else s

/-- One port-B access of a whole field, one atomic event (R46, R66). -/
def State.busAccess (s : State) (r : BusRequest) : State :=
  if r.we then s.busWrite r.addr r.wdata else { s with bRdata := some (s.busRead r.addr) }

/-! ### Outcomes and the decoder session -/

/-- `emit_outcome(code, arg)`: one event on the outcome port, appended to the trace (60_exceptions.md R221). -/
def State.emitOutcome (s : State) (c : OutcomeCode) (arg : Byte) : State :=
  { s with evt := some ⟨c, arg⟩, events := s.events ++ [⟨c, arg⟩] }

/-- `resync()` (41_frame_decoder.md R120): `rx_buf` is not cleared. -/
def State.resync (s : State) : State := { s with dec := Decoder.reset }

/-- A header rejection or a truncated frame: `resync()`, then the outcome (R124 to R126, R131, R238). -/
def State.rejectFrame (s : State) (c : OutcomeCode) (arg : Byte) : State := s.resync.emitOutcome c arg

/-- `rst` resets all block state together, register map included (70_reset_and_hazards.md R260, R263). The environment,
the parameters and the observations are outside the block (log 17). -/
def State.afterRst (s : State) : State :=
  { s with
    dec := Decoder.reset
    rxBuf := []
    seq := Sequencer.reset
    txBuf := []
    reg := tabulate12 (Servo.reset s.params s.draws)
    evt := none
    bRdata := none
    draws := s.draws + 36 }

/-- `dec.state <- d`. -/
def State.setDecState (s : State) (d : DecState) : State := { s with dec := { s.dec with state := d } }

/-! ### The sequencer -/

/-- VALIDATE ends without a reply: outcome, argument, and phase CLEAR (R160, R162, R166, R170). -/
def State.failFrame (s : State) (c : OutcomeCode) (arg : Byte) : State :=
  { s with seq := { s.seq with outcome := some c, arg := arg, phase := .clear } }

/-- VALIDATE accepts a control frame: staged goals, outcome, argument, next phase with `seq.k <- 0` (R162). -/
def State.acceptControl (s : State) (g : Vector Half 12) (c : OutcomeCode) (arg : Byte) (p : Phase) : State :=
  { s with seq := { phase := p, k := 0, outcome := some c, arg := arg, goalStage := g } }

/-- `seq.phase <- p`. -/
def State.setPhase (s : State) (p : Phase) : State := { s with seq := { s.seq with phase := p } }

/-- `seq.k <- seq.k + 1`. -/
def State.nextK (s : State) : State := { s with seq := { s.seq with k := s.seq.k + 1 } }

/-- `seq.phase <- p` and `seq.k <- 0`. -/
def State.startPhase (s : State) (p : Phase) : State := { s with seq := { s.seq with phase := p, k := 0 } }

/-! ### Ports and environment -/

/-- `send(b)`: one byte passes the transmit port (R41). -/
def State.send (s : State) (b : Byte) : State := { s with sent := s.sent ++ [b] }

/-- The value of the next read of a sensor input: the draw the environment fixed, else a free one (R44, R244, log 5). -/
def State.sensorValue (s : State) (m : Sensor) : Word :=
  match s.env.sensorFeed with
  | w :: _ => w
  | [] => Config.sensorDraw m s.draws

/-- A sensor read uses up one draw; the read itself has no other side effect (20_memory.md R68). -/
def State.useDraw (s : State) : State :=
  { s with env := { s.env with sensorFeed := s.env.sensorFeed.tail }, draws := s.draws + 1 }

/-- The receive source offers one more byte, after those that wait (R40, R198). -/
def State.offerByte (s : State) (b : Byte) : State := { s with env := { s.env with rxLine := s.env.rxLine ++ [b] } }

/-- The block takes the byte at `rx_data` (R40). -/
def State.popRx (s : State) : State := { s with env := { s.env with rxLine := s.env.rxLine.tail } }

/-- `tx_ready` is driven to a level (R41). -/
def State.driveTxReady (s : State) (v : Bool) : State := { s with env := { s.env with txReady := v } }

/-- `admin_enable` is driven to a level (R43). -/
def State.driveAdminEnable (s : State) (v : Bool) : State := { s with env := { s.env with adminEnable := v } }

/-- The environment fixes one more sensor draw (R44). -/
def State.fixSensor (s : State) (w : Word) : State :=
  { s with env := { s.env with sensorFeed := s.env.sensorFeed ++ [w] } }

/-- The turn a schedule without end has first (log 2). -/
def Schedule.turn : Schedule → Turn
  | .quiet => .core
  | .cycle t _ => t
  | .free n => Config.freeTurn n

/-- The schedule after its first turn (log 2). -/
def Schedule.rest : Schedule → Schedule
  | .quiet => .quiet
  | .cycle t [] => .cycle t []
  | .cycle t (u :: us) => .cycle u (us ++ [t])
  | .free n => .free (n + 1)

/-- The turn that is next: the script's, or the later schedule's once the script is used up (log 1, log 2). -/
def Env.nextTurn (e : Env) : Turn :=
  match e.script with
  | [] => e.later.turn
  | t :: _ => t

/-- The environment with its next turn used up. -/
def Env.useTurn (e : Env) : Env :=
  { e with script := e.script.tail, later := if e.script.isEmpty then e.later.rest else e.later }

/-- The turn that is next (60_exceptions.md R240). -/
def State.nextTurn (s : State) : Turn := s.env.nextTurn

/-- A step begins: its turn is used up, and the one-step outputs of the step before go back to idle (R221). -/
def State.beginStep (s : State) : State := { s with env := s.env.useTurn, evt := none, bRdata := none }

end Sys2Proof.Machine
end

