-- ==== Sys2Proof/Machine/Operands.lean ====
section
/-! DEFINITION. The operands of `INST_CONTROL` after decoding: range treatment (42_dispatcher.md R165, R166), and the
reply's operands (30_encoding.md R86, 43_reply_frame.md R193, R194). -/

namespace Sys2Proof.Machine

/-- A goal is out of range when it is above 1023, as an unsigned number (R165). -/
def goalOutOfRange (v : Half) : Bool := decide (Config.goalMax < v)

/-- `min(g, 1023)` (R165). -/
def clampGoal (v : Half) : Half := if goalOutOfRange v then Config.goalMax else v

/-- The staged goals (R162, R165). -/
def clampGoals (g : Vector Half 12) : Vector Half 12 := tabulate12 fun k => clampGoal g[k]

/-- `c`, the number of goals above 1023 (R162). -/
def clampCount (g : Vector Half 12) : Byte := BitVec.ofNat 8 (g.toList.filter goalOutOfRange).length

/-- The least index of a goal above 1023, if there is one (R166). -/
def firstOutOfRange (g : Vector Half 12) : Option Nat := g.toList.findIdx? goalOutOfRange

/-- The header SEAL writes: `FF FF 01 46 00` (R194). -/
def replyHeader : List Byte := [Config.sync, Config.sync, Config.deviceId, Config.replyLen, Config.statusOk]

/-- Sensor word `m` of the reply, in the order of R193. -/
def sensorOf : Nat → Sensor
  | 0 => .imuRoll
  | 1 => .imuPitch
  | 2 => .imuYaw
  | 3 => .pwrVoltage
  | _ => .pwrCurrent

end Sys2Proof.Machine
end

