-- ==== Sys2Proof/Machine/Flags.lean ====
section
/-! DEFINITION. The block has no condition codes (10_state.md R47). Here are its two internal conditions, the outputs its
ports derive from the state, and the numbers the spec gives the enumerated registers. -/

namespace Sys2Proof.Machine

/-- `done` (R47). -/
def State.isDone (s : State) : Bool := decide (s.dec.state = .done)

/-- `reply_required` (R47): from an accepting VALIDATE step until its CLEAR step. -/
def State.replyRequired (s : State) : Bool :=
  match s.seq.phase with
  | .write | .gather | .seal | .emit => true
  | .clear => decide (s.seq.outcome = some .controlApplied ∨ s.seq.outcome = some .controlNotApplied)
  | .idle | .validate => false

/-- `rx_ready` (41_frame_decoder.md R121). -/
def State.rxReady (s : State) : Bool := decide (s.seq.phase = .idle)

/-- `rx_valid` (R40). -/
def State.rxValid (s : State) : Bool := !s.env.rxLine.isEmpty

/-- `tx_valid`: only in phase EMIT (R41). -/
def State.txValid (s : State) : Bool := decide (s.seq.phase = .emit)

/-- `tx_data` in phase EMIT (R196). -/
def State.txData (s : State) : Byte := s.txBuf.read s.seq.k.toNat

/-- `evt_valid` (R45). -/
def State.evtValid (s : State) : Bool := s.evt.isSome

/-- The encodings of `dec.state` (R21). -/
def DecState.code : DecState → BitVec 3
  | .awaitSync1 => 0
  | .awaitSync2 => 1
  | .awaitId => 2
  | .awaitLength => 3
  | .accumulatePayload => 4
  | .done => 5

/-- The encodings of `seq.phase` (R27). -/
def Phase.code : Phase → BitVec 3
  | .idle => 0
  | .validate => 1
  | .write => 2
  | .gather => 3
  | .seal => 4
  | .emit => 5
  | .clear => 6

/-- The outcome codes (60_exceptions.md R220). -/
def OutcomeCode.code : OutcomeCode → BitVec 4
  | .controlApplied => 0x1
  | .controlNotApplied => 0x2
  | .checksumMismatch => 0x3
  | .unknownInstruction => 0x4
  | .invalidPayloadLength => 0x5
  | .positionOutOfRange => 0x6
  | .headerRejectedId => 0x7
  | .headerRejectedLong => 0x8
  | .headerRejectedShort => 0x9
  | .frameTruncated => 0xA

/-- The 4-bit code of `seq.outcome`, `NONE` being 0 (R220). -/
def outcomeRegCode : Option OutcomeCode → BitVec 4
  | none => 0
  | some c => c.code

end Sys2Proof.Machine
end

