-- ==== Sys2Proof/Machine/FrameDispatcher.lean ====
section
/-! DEFINITION. The FrameDispatcher (42_dispatcher.md): what the two instructions do in the VALIDATE step that decodes
them. The WRITE, GATHER, SEAL, EMIT and CLEAR steps that follow stand in Machine/Transaction.lean (log 16). -/

namespace Sys2Proof.Machine

/-- A control frame of length 26 whose goals are in range or clamped (R162, R165, R167): `admin_enable` is sampled here,
once. -/
def acceptGoals (g : Vector Half 12) (s : State) : State :=
  if s.env.adminEnable then s.acceptControl (clampGoals g) .controlApplied (clampCount g) .write
  else s.acceptControl (clampGoals g) .controlNotApplied (clampCount g) .gather

/-- `POSITION_POLICY` (R165, R166). -/
def dispatchGoals (g : Vector Half 12) (s : State) : State :=
  match s.params.policy, firstOutOfRange g with
  | .reject, some k => s.failFrame .positionOutOfRange (BitVec.ofNat 8 k)
  | _, _ => acceptGoals g s

/-- `INST_CONTROL` (R162, R163). -/
def execInstControl (op : ControlOperand) (s : State) : Host.Outcome State Fault Refusal :=
  match op with
  | .wrongLength _ => .next (s.failFrame .invalidPayloadLength s.dec.lenReg)
  | .goals g => .next (dispatchGoals g s)

/-- `INST_OTHER` (R170): the payload is not examined. -/
def execInstOther (instr : Byte) (s : State) : Host.Outcome State Fault Refusal :=
  .next (s.failFrame .unknownInstruction instr)

end Sys2Proof.Machine
end

