-- ==== Sys2Proof/Machine/Dispatch.lean ====
section
/-! DEFINITION. Which meaning each instruction has (42_dispatcher.md R161). -/

namespace Sys2Proof.Machine

def exec (i : Instr) (s : State) : Host.Outcome State Fault Refusal :=
  match i with
  | .instControl op => Sys2Proof.Machine.execInstControl op s
  | .instOther instr _ => Sys2Proof.Machine.execInstOther instr s

end Sys2Proof.Machine
end

