-- ==== Sys2Proof/Machine/FrameDecoder.lean ====
section
/-! DEFINITION. The FrameDecoder (41_frame_decoder.md): the byte step, one rule per state and branch, and the receive
timeout. -/

namespace Sys2Proof.Machine

/-- A byte in AwaitSync1 (R122). -/
def byteAwaitSync1 (b : Byte) (s : State) : State :=
  if b = Config.sync then (s.writeRx 0 Config.sync).setDecState .awaitSync2 else s

/-- A byte in AwaitSync2 (R123): a byte that fails is re-evaluated under R122 after `resync()` (R136). -/
def byteAwaitSync2 (b : Byte) (s : State) : State :=
  if b = Config.sync then (s.writeRx 1 Config.sync).setDecState .awaitId else byteAwaitSync1 b s.resync

/-- `dec.id_reg <- b ; rx_buf[2] <- b` (R124). -/
def State.takeId (s : State) (b : Byte) : State :=
  { s with dec := { s.dec with idReg := b }, rxBuf := s.rxBuf.write 2 b }

/-- A byte in AwaitId (R124): a rejected id is not re-evaluated. Its outcome comes before a complete frame, against R262.
DEDUCED (log 26): R124 is followed. -/
def byteAwaitId (b : Byte) (s : State) : State :=
  let t := s.takeId b
  if b ≠ Config.deviceId then t.rejectFrame .headerRejectedId b
  else { t with dec := { t.dec with acc := b, state := .awaitLength } }

/-- An accepted length byte (R127). -/
def State.takeLength (s : State) (b : Byte) : State :=
  { s with
    dec := { s.dec with lenReg := b, acc := s.dec.acc + b, count := 0, state := .accumulatePayload }
    rxBuf := s.rxBuf.write 3 b }

/-- A byte in AwaitLength: too short (R125), too long (R126) or accepted (R127). The two rejections emit before a complete
frame, against R262. DEDUCED (log 26): R125 and R126 are followed. -/
def byteAwaitLength (b : Byte) (s : State) : State :=
  if b.toNat < 2 then s.rejectFrame .headerRejectedShort b
  else if s.params.cap < b.toNat + 4 then s.rejectFrame .headerRejectedLong b
  else s.takeLength b

/-- Store and count one byte of the length-delimited part; the last one, the checksum, is not summed (R128). -/
def State.takeBodyByte (s : State) (b : Byte) : State :=
  { s with
    dec := { s.dec with
      acc := if s.dec.count.toNat + 1 < s.dec.lenReg.toNat then s.dec.acc + b else s.dec.acc
      count := s.dec.count + 1 }
    rxBuf := s.rxBuf.write (4 + s.dec.count.toNat) b }

/-- Done and VALIDATE, in one step, when `dec.count` has reached `dec.len_reg` (R128, R129). -/
def State.finishFrame (s : State) : State :=
  if s.dec.count = s.dec.lenReg then (s.setDecState .done).setPhase .validate else s

/-- A byte in AccumulatePayload (R128): no byte value is special. -/
def byteAccumulate (b : Byte) (s : State) : Host.Outcome State Fault Refusal :=
  if s.params.cap ≤ 4 + s.dec.count.toNat then .fault .rxIndexOutOfRange
  else .next (s.takeBodyByte b).finishFrame

/-- One byte step (R121): exactly one of R122 to R128, chosen by `dec.state`. In Done the decoder writes nothing (R130);
no run offers it a byte there (R50 (a), log 10). R134 (d) bounds the return to AwaitSync1 by `CAP - 4` bytes, but R123 to
R128 take up to `CAP - 1` from AwaitSync2, `CAP - 2` from AwaitId and `CAP - 3` from AwaitLength. DEDUCED (log 25): the
step rules are followed. -/
def byteStep (b : Byte) (s : State) : Host.Outcome State Fault Refusal :=
  match s.dec.state with
  | .awaitSync1 => .next (byteAwaitSync1 b s)
  | .awaitSync2 => .next (byteAwaitSync2 b s)
  | .awaitId => .next (byteAwaitId b s)
  | .awaitLength => .next (byteAwaitLength b s)
  | .accumulatePayload => byteAccumulate b s
  | .done => .next s

/-- The core's step in phase IDLE when no timeout is asserted: a byte step if a byte is offered, else idle (R121, R133,
R241). A decoder in Done takes no byte (R130, log 10). -/
def idleStep (s : State) : Host.Outcome State Fault Refusal :=
  match s.env.rxLine with
  | [] => .next s
  | b :: _ => if s.isDone then .next s else byteStep b s.popRx

/-- The bytes of the frame received so far (R131), at most 255. -/
def truncatedArg (n : Nat) : Byte := BitVec.ofNat 8 (min n 255)

/-- The effect of one timeout event with `seq.phase = IDLE` (R131). FRAME_TRUNCATED comes before a complete frame, against
R262. DEDUCED (log 26): R131 is followed. -/
def timeoutEffect (s : State) : State :=
  match s.dec.state with
  | .awaitSync1 => s
  | .awaitSync2 => s.resync
  | .awaitId => s.rejectFrame .frameTruncated (truncatedArg 2)
  | .awaitLength => s.rejectFrame .frameTruncated (truncatedArg 3)
  | .accumulatePayload => s.rejectFrame .frameTruncated (truncatedArg (4 + s.dec.count.toNat))
  | .done => s

/-- A timeout takes effect only when `seq.phase = IDLE`; in any other phase it is ignored and not queued (R131). -/
def timeoutIfIdle (s : State) : State := if s.rxReady then timeoutEffect s else s

/-- One assertion of `rx_timeout`. A byte that is offered at that instant is taken first, and the timeout is then judged
against the new state (R131, R235, D23, log 11). -/
def timeoutStep (s : State) : Host.Outcome State Fault Refusal :=
  if s.rxReady then
    match idleStep s with
    | .next t => .next (timeoutIfIdle t)
    | .fault r => .fault r
    | .refused r => .refused r
  else .next s

end Sys2Proof.Machine
end

