-- ==== Sys2Proof/Machine/Transaction.lean ====
section
/-! DEFINITION. The per-frame transaction (43_reply_frame.md): one phase step per atomic event. -/

namespace Sys2Proof.Machine

/-- VALIDATE (R191): the stored checksum against the running sum (40_checksum.md R102), then dispatch of the decoded
instruction (R160, R161). -/
def validateStep (s : State) : Host.Outcome State Fault Refusal :=
  let n := s.dec.lenReg.toNat
  let stored := s.rxBuf.read (n + 3)
  if s.params.cap < n + 4 then .fault .rxIndexOutOfRange
  else if stored ≠ ~~~ s.dec.acc then .next (s.failFrame .checksumMismatch stored)
  else exec (instrOfBody (s.rxBuf.read 4) (s.rxBuf.slice 5 (n - 2))) s

/-- WRITE step `k` (R192): one port-A write. -/
def writeStep (s : State) : Host.Outcome State Fault Refusal :=
  if h : s.seq.k.toNat < 12 then
    let t := s.writeGoal ⟨s.seq.k.toNat, h⟩ s.seq.goalStage[s.seq.k.toNat]
    .next (if s.seq.k.toNat < 11 then t.nextK else t.startPhase .gather)
  else .fault .phaseIndexOutOfRange

/-- The bytes GATHER step `k` reads and where in `tx_buf` they go (R193), before `seq.k` moves. -/
def gatherField (s : State) : State :=
  let k := s.seq.k.toNat
  if h : k < 12 then s.storeTx (5 + 2 * k) (halfBytes s.reg[k].presentPosition)
  else if h : k - 12 < 12 then s.storeTx (29 + 2 * (k - 12)) (halfBytes s.reg[k - 12].presentLoad)
  else (s.storeTx (53 + 4 * (k - 24)) (wordBytes (s.sensorValue (sensorOf (k - 24))))).useDraw

/-- GATHER step `k` (R193): one port-A read or one sensor read. After step 28 `seq.k` stays. -/
def gatherStep (s : State) : Host.Outcome State Fault Refusal :=
  if s.seq.k.toNat < 29 then
    .next (if s.seq.k.toNat < 28 then (gatherField s).nextK else (gatherField s).setPhase .seal)
  else .fault .phaseIndexOutOfRange

/-- SEAL (R194, R195): header, then the checksum over the exact bytes that will be sent (40_checksum.md R106). -/
def sealStep (s : State) : State :=
  let t := s.storeTx 0 replyHeader
  (t.storeTx 73 [compute (t.txBuf.slice 2 71)]).startPhase .emit

/-- EMIT step `k` (R196): with `tx_ready = 0` the block waits and nothing changes (R276, U14). After step 73 `seq.k`
stays. -/
def emitStep (s : State) : Host.Outcome State Fault Refusal :=
  if s.seq.k.toNat < 74 then
    if s.env.txReady then
      .next (if s.seq.k.toNat < 73 then (s.send s.txData).nextK else (s.send s.txData).setPhase .clear)
    else .next s
  else .fault .phaseIndexOutOfRange

/-- Emission of `seq.outcome`; NONE is never emitted (60_exceptions.md R220, log 20). -/
def State.emitRegister (s : State) : State :=
  match s.seq.outcome with
  | some c => s.emitOutcome c s.seq.arg
  | none => s

/-- CLEAR (R197): `resync()`, the outcome, and the sequencer back to IDLE. -/
def clearStep (s : State) : State :=
  let t := s.resync.emitRegister
  { t with seq := { t.seq with phase := .idle, k := 0, outcome := none, arg := 0 } }

/-- The core's step when no timeout is asserted (60_exceptions.md R241, 43_reply_frame.md R190). -/
def coreStep (s : State) : Host.Outcome State Fault Refusal :=
  match s.seq.phase with
  | .idle => idleStep s
  | .validate => validateStep s
  | .write => writeStep s
  | .gather => gatherStep s
  | .seal => .next (sealStep s)
  | .emit => emitStep s
  | .clear => .next (clearStep s)

/-- One turn of one agent (60_exceptions.md R240 to R245). -/
def takeTurn (t : Turn) (s : State) : Host.Outcome State Fault Refusal :=
  match t with
  | .core => coreStep s
  | .offerByte b => .next (s.offerByte b)
  | .setTxReady v => .next (s.driveTxReady v)
  | .timeout => timeoutStep s
  | .bus r => .next (s.busAccess r)
  | .setAdminEnable v => .next (s.driveAdminEnable v)
  | .fixSensor w => .next (s.fixSensor w)
  | .reset => .next s.afterRst

/-- The state VALIDATE reads for a frame just received: the frame's bytes in `rx_buf`, the decoder in Done with the
registers R124 to R128 leave, and the phase VALIDATE (R129). -/
def State.withFrame (s : State) (bytes : List Byte) : State :=
  let len := bytes.getD 3 0
  { s with
    dec := { state := .done, idReg := bytes.getD 2 0, lenReg := len, count := len,
             acc := sum8 ((bytes.drop 2).take (len.toNat + 1)) }
    rxBuf := s.rxBuf.storeBytes 0 bytes
    seq := { s.seq with phase := .validate } }

end Sys2Proof.Machine
end

