-- ==== Sys2Proof/Machine/Step.lean ====
section
/-! DEFINITION. One step of the machine: the next turn of the interleaving (60_exceptions.md R240). -/

namespace Sys2Proof.Machine

/-- One atomic step of one agent. -/
def step (s : State) : Host.Outcome State Fault Refusal := takeTurn s.nextTurn s.beginStep

/-- The machine with the frame of a table word received, and the core's turn next, so that the next step is the VALIDATE
step that dispatches it (log 15). -/
def State.withFetchWord (s : State) (nbits w : Nat) : State :=
  let t := s.withFrame (tableFrame nbits w)
  { t with env := { t.env with script := .core :: t.env.script } }

end Sys2Proof.Machine
end

