-- ==== Sys2Proof/Safety.lean ====
section
/-! DEFINITION. What claims about the block are stated in: its invariants (10_state.md R50, 40_checksum.md R102), the
edges of the transaction (43_reply_frame.md R190), and the reply frame as the wire format gives it (30_encoding.md R86). -/

namespace Sys2Proof.Machine

/-- No byte is listed at or above address `n`. -/
def Memory.below (n : Nat) (m : Memory) : Bool := m.all fun c => decide (c.1 < n)

/-- The outcomes that VALIDATE chooses and CLEAR emits (R197); the others are the decoder's (60_exceptions.md R235). -/
def transactionOutcome : OutcomeCode → Bool
  | .controlApplied => true
  | .controlNotApplied => true
  | .checksumMismatch => true
  | .unknownInstruction => true
  | .invalidPayloadLength => true
  | .positionOutOfRange => true
  | .headerRejectedId => false
  | .headerRejectedLong => false
  | .headerRejectedShort => false
  | .frameTruncated => false

/-- The outcome register suits the phase: it is NONE until VALIDATE, a success while a reply is built or sent, and a
transaction's outcome at CLEAR (R190, R197). -/
def outcomeSuits : Phase → Option OutcomeCode → Bool
  | .idle, o => decide (o = none)
  | .validate, o => decide (o = none)
  | .clear, o => o.any transactionOutcome
  | _, o => decide (o = some .controlApplied ∨ o = some .controlNotApplied)

/-- `seq.k` is in the range its phase gives it (R27). -/
def indexSuits : Phase → Nat → Bool
  | .write, k => decide (k < 12)
  | .gather, k => decide (k < 29)
  | .emit, k => decide (k < 74)
  | _, _ => true

/-- The invariants of 10_state.md R50 (a) to (d), with what makes them inductive: the buffers are canonical and inside
their bounds, `dec.count` is below the length until Done, the staged goals are in range while they are written, and the
sequencer's index and outcome suit its phase. R50 (e) holds by construction, since `id` has no storage. -/
structure State.Inv (s : State) : Prop where
  params : s.params.wf = true
  rxCanonical : s.rxBuf.wf = true
  rxBound : s.rxBuf.below s.params.cap = true
  txCanonical : s.txBuf.wf = true
  txBound : s.txBuf.below Config.replyBytes = true
  idleIff : s.seq.phase = .idle ↔ s.dec.state ≠ .done
  lengthRange : s.dec.state = .accumulatePayload ∨ s.dec.state = .done →
    2 ≤ s.dec.lenReg.toNat ∧ s.dec.lenReg.toNat + 4 ≤ s.params.cap
  countLe : s.dec.count.toNat ≤ s.dec.lenReg.toNat
  countLt : s.dec.state = .accumulatePayload → s.dec.count.toNat < s.dec.lenReg.toNat
  goalRange : ∀ k : Fin 12, s.reg[k].goalPosition ≤ Config.goalMax
  stageRange : s.seq.phase = .write → ∀ k : Fin 12, s.seq.goalStage[k] ≤ Config.goalMax
  indexRange : indexSuits s.seq.phase s.seq.k.toNat = true
  outcomeSet : outcomeSuits s.seq.phase s.seq.outcome = true

/-- The bytes the running sum covers after `n` bytes of the length-delimited part: id, length and those bytes (R102). -/
def State.coveredBytes (s : State) (n : Nat) : List Byte := s.rxBuf.slice 2 (n + 2)

/-- What the decoder session says of `rx_buf` (10_state.md R26, 40_checksum.md R102): the header bytes received so far are
stored, and `dec.acc` is the sum of the covered bytes received so far. -/
def State.FrameTracked (s : State) : Prop :=
  match s.dec.state with
  | .awaitSync1 => True
  | .awaitSync2 => s.rxBuf.slice 0 1 = [Config.sync]
  | .awaitId => s.rxBuf.slice 0 2 = [Config.sync, Config.sync]
  | .awaitLength =>
    s.rxBuf.slice 0 3 = [Config.sync, Config.sync, Config.deviceId] ∧ s.dec.acc = Config.deviceId
  | .accumulatePayload =>
    s.rxBuf.slice 0 4 = [Config.sync, Config.sync, Config.deviceId, s.dec.lenReg] ∧
      s.dec.acc = sum8 (s.coveredBytes s.dec.count.toNat)
  | .done =>
    s.rxBuf.slice 0 4 = [Config.sync, Config.sync, Config.deviceId, s.dec.lenReg] ∧
      s.dec.acc = sum8 (s.coveredBytes (s.dec.lenReg.toNat - 1))

/-- `n` steps of the machine, stopping at the first fault or refusal (the host's `Core.run`, Laws/Step.lean). -/
def runSteps : Nat → State → Host.Outcome State Fault Refusal
  | 0, s => .next s
  | n + 1, s =>
    match step s with
    | .next t => runSteps n t
    | .fault r => .fault r
    | .refused r => .refused r

/-- `s` as a byte step leaves it but for the step's own effect: the turn and the byte at `rx_data` are used up, `rest`
still waits, and the one-step outputs are idle. -/
def State.tookByte (s : State) (rest : List Byte) : State :=
  { s.beginStep with env := { s.beginStep.env with rxLine := rest } }

/-- The core's turn is next, the block waits for a byte, and `b` is offered with `rest` behind it (R121). -/
def State.offers (s : State) (b : Byte) (rest : List Byte) : Prop :=
  s.nextTurn = .core ∧ s.seq.phase = .idle ∧ s.env.rxLine = b :: rest

/-- The core's turn is next and the sequencer is in phase `p`. -/
def State.coreIn (s : State) (p : Phase) : Prop := s.nextTurn = .core ∧ s.seq.phase = p

/-- Nothing but the core moves from here on: no turn of another agent is planned. -/
def State.alone (s : State) : Prop := s.env.script = [] ∧ s.env.later = .quiet

/-- The turn that comes after `n` others. -/
def Env.turnAt : Nat → Env → Turn
  | 0, e => e.nextTurn
  | n + 1, e => Env.turnAt n e.useTurn

/-- The byte that a turn offers, if it is an offer. -/
def Turn.offered : Turn → List Byte
  | .offerByte b => [b]
  | _ => []

/-- The bytes the receive source offers in the next `n` turns, oldest first (R242). -/
def Env.offeredIn : Nat → Env → List Byte
  | 0, _ => []
  | n + 1, e => e.nextTurn.offered ++ Env.offeredIn n e.useTurn

/-- The block's registers at the values 10_state.md R49 gives for reset; `n` is the number of the first reset draw. -/
structure State.AtReset (n : Nat) (s : State) : Prop where
  dec : s.dec = { state := .awaitSync1, idReg := 0, lenReg := 0, count := 0, acc := 0 }
  phase : s.seq.phase = .idle
  index : s.seq.k = 0
  outcome : s.seq.outcome = none
  arg : s.seq.arg = 0
  goals : ∀ k : Fin 12, s.reg[k].goalPosition = 512
  torque : ∀ k : Fin 12, s.reg[k].torqueSwitch = s.params.torqueReset
  position : ∀ k : Fin 12, s.reg[k].presentPosition = Config.presentReset .position (n + 3 * k.val)
  velocity : ∀ k : Fin 12, s.reg[k].presentVelocity = Config.presentReset .velocity (n + 3 * k.val + 1)
  load : ∀ k : Fin 12, s.reg[k].presentLoad = Config.presentReset .load (n + 3 * k.val + 2)
  rxReady : s.rxReady = true
  txValid : s.txValid = false
  evtValid : s.evtValid = false
  ids : ∀ k : Fin 12, s.busRead (BitVec.ofNat 7 (8 * k.val)) = BitVec.ofNat 16 (k.val + 1)

/-- The edges of R190 between different phases. -/
def phaseEdge : Phase → Phase → Bool
  | .idle, .validate => true
  | .validate, .clear => true
  | .validate, .write => true
  | .validate, .gather => true
  | .write, .gather => true
  | .gather, .seal => true
  | .seal, .emit => true
  | .emit, .clear => true
  | .clear, .idle => true
  | _, _ => false

/-- The acknowledge frame of R86: header, twelve positions, twelve loads, the sensor words, checksum. -/
def replyFrame (reg : Vector Servo 12) (words : List Word) : List Byte :=
  let payload := (reg.toList.flatMap fun r => halfBytes r.presentPosition)
    ++ (reg.toList.flatMap fun r => halfBytes r.presentLoad) ++ words.flatMap wordBytes
  [0xFF, 0xFF] ++ ([0x01, 0x46, 0x00] ++ payload) ++ [compute ([0x01, 0x46, 0x00] ++ payload)]

/-- The five sensor words the next five sensor reads return: what the environment fixed, and past that free draws
(R44, R244). -/
def State.sensorWords (s : State) : List Word :=
  (List.range 5).map fun m => s.env.sensorFeed.getD m (Config.sensorDraw (sensorOf m) (s.draws + m))

end Sys2Proof.Machine
end

