-- ==== Sys2Proof/Certificates/Slice0/Obligations.lean ====
section
/-! DEFINITION. What is to be proved of the model. Each statement's docstring names the rule of spec/ it formalises. -/

open Sys2Proof Sys2Proof.Machine

/-! ### Reset (10_state.md R49, 70_reset_and_hazards.md R260 to R263) -/

/-- R49, R261: the registers after `rst` and in the state the machine starts from. -/
def Obligations.ResetLeavesSpecValues : Prop :=
  (∀ s : State, s.nextTurn = .reset → ∃ t, step s = .next t ∧ t.AtReset s.draws) ∧ State.reset.AtReset 0

/-- R263: reset in mid-transaction abandons it. -/
def Obligations.ResetAbandonsTransaction : Prop :=
  ∀ s : State, s.nextTurn = .reset → s.seq.phase ≠ .idle →
    ∃ t, step s = .next t ∧ t.seq.phase = .idle ∧ t.dec.state = .awaitSync1 ∧ t.sent = s.sent ∧ t.events = s.events ∧
      t.evt = none ∧ ∀ k : Fin 12, t.reg[k].goalPosition = 512

/-! ### Checksum (40_checksum.md) -/

/-- R103: a frame passes `verify` exactly when its bytes from the id through the checksum sum to `0xFF`. -/
def Obligations.VerifyIffSumIsAllOnes : Prop :=
  ∀ bs : List Byte, bs ≠ [] → (verify bs = true ↔ sum8 bs = 0xFF)

/-- R104: one flipped bit of a covered byte or of the checksum changes the sum by `2^j` one way or the other, and
`verify` becomes false. -/
def Obligations.SingleBitErrorDetected : Prop :=
  ∀ (pre post : List Byte) (b : Byte) (j : Fin 8),
    let flipped := b ^^^ BitVec.ofNat 8 (2 ^ j.val)
    (sum8 (pre ++ flipped :: post) = sum8 (pre ++ b :: post) + BitVec.ofNat 8 (2 ^ j.val) ∨
      sum8 (pre ++ flipped :: post) = sum8 (pre ++ b :: post) - BitVec.ofNat 8 (2 ^ j.val)) ∧
    (verify (pre ++ b :: post) = true → verify (pre ++ flipped :: post) = false)

/-- R105: a change of the covered bytes that keeps their sum, a reordering among them, passes `verify`; the all-512 and
the all-1023 control frames carry the same checksum `0xCB`. -/
def Obligations.SumPreservingChangePasses : Prop :=
  (∀ (cov cov' : List Byte) (chk : Byte), sum8 cov = sum8 cov' → verify (cov ++ [chk]) = verify (cov' ++ [chk])) ∧
  (∀ (cov cov' : List Byte) (chk : Byte), cov.Perm cov' → verify (cov ++ [chk]) = verify (cov' ++ [chk])) ∧
  compute (covered 0x01 0x1A 0x01 (payloadOfGoals (tabulate12 fun _ => 512))) = 0xCB ∧
  compute (covered 0x01 0x1A 0x01 (payloadOfGoals (tabulate12 fun _ => 1023))) = 0xCB

/-- 70_reset_and_hazards.md R271: a correct frame whose length byte is raised by one and which swallows the next sync byte
still passes `verify`. -/
def Obligations.RaisedLengthPassesVerify : Prop :=
  ∀ (id len chk : Byte) (body : List Byte), verify (id :: len :: body ++ [chk]) = true →
    verify (id :: (len + 1) :: body ++ [chk] ++ [Config.sync]) = true

/-! ### Encoding (30_encoding.md) -/

/-- Decoding the frame of a well-formed instruction gives it back, with every operand and the bytes after it. -/
def Obligations.DecodeOfEncode : Prop :=
  ∀ (cap : Nat) (i : Instr) (rest : List Byte), i.wf cap = true → decode cap (encode i ++ rest) = .ok i rest

/-- Every frame the decoder accepts is the frame of the well-formed instruction it gives. -/
def Obligations.EncodeOfDecode : Prop :=
  ∀ (cap : Nat) (i : Instr) (bs rest : List Byte), decode cap bs = .ok i rest → i.wf cap = true ∧ encode i ++ rest = bs

/-- R84, R88 and the vectors of 95_test_vectors.md: words written out from the encoding decode to their instructions. -/
def Obligations.SpecWordsDecode : Prop :=
  decode 128 [0xFF, 0xFF, 0x01, 0x1A, 0x01, 0x00, 0x02, 0x00, 0x02, 0x00, 0x02, 0x00, 0x02, 0x00, 0x02, 0x00, 0x02, 0x00,
      0x02, 0x00, 0x02, 0x00, 0x02, 0x00, 0x02, 0x00, 0x02, 0x00, 0x02, 0xCB]
    = .ok (.instControl (.goals (tabulate12 fun _ => 512))) [] ∧
  decode 128 [0xFF, 0xFF, 0x01, 0x02, 0x05, 0xF7] = .ok (.instOther 0x05 []) [] ∧
  decode 128 [0xFF, 0xFF, 0x01, 0x02, 0x01, 0xFB] = .ok (.instControl (.wrongLength [])) [] ∧
  decode 128 [0xFF, 0xFF, 0x02, 0x02, 0x05, 0xF6] = .error (.wrongId 0x02) ∧
  decode 128 [0xFF, 0xFF, 0x01, 0x7D] = .error (.tooLong 0x7D) ∧
  decode 128 [0xFF, 0xFF, 0x01, 0x01] = .error (.tooShort 0x01) ∧
  decode 128 [0xFF, 0xFF, 0x01, 0x02, 0x05, 0xF6] = .error (.checksumMismatch 0xF6)

/-! ### Byte steps (41_frame_decoder.md) -/

/-- R122: AwaitSync1. -/
def Obligations.ByteInAwaitSync1 : Prop :=
  ∀ (s : State) (b : Byte) (rest : List Byte), s.offers b rest → s.dec.state = .awaitSync1 →
    step s = .next
      (if b = 0xFF then
        { s.tookByte rest with rxBuf := s.rxBuf.write 0 0xFF, dec := { s.dec with state := .awaitSync2 } }
      else s.tookByte rest)

/-- R123, R136: AwaitSync2; a byte other than `0xFF` leaves AwaitSync1 and writes nothing to `rx_buf`. -/
def Obligations.ByteInAwaitSync2 : Prop :=
  ∀ (s : State) (b : Byte) (rest : List Byte), s.offers b rest → s.dec.state = .awaitSync2 →
    step s = .next
      (if b = 0xFF then
        { s.tookByte rest with rxBuf := s.rxBuf.write 1 0xFF, dec := { s.dec with state := .awaitId } }
      else
        { s.tookByte rest with dec := { state := .awaitSync1, idReg := 0, lenReg := 0, count := 0, acc := 0 } })

/-- R124: AwaitId. -/
def Obligations.ByteInAwaitId : Prop :=
  ∀ (s : State) (b : Byte) (rest : List Byte), s.offers b rest → s.dec.state = .awaitId →
    step s = .next
      (if b = 0x01 then
        { s.tookByte rest with
          rxBuf := s.rxBuf.write 2 b, dec := { s.dec with idReg := b, acc := b, state := .awaitLength } }
      else
        { s.tookByte rest with
          rxBuf := s.rxBuf.write 2 b
          dec := { state := .awaitSync1, idReg := 0, lenReg := 0, count := 0, acc := 0 }
          evt := some ⟨.headerRejectedId, b⟩
          events := s.events ++ [⟨.headerRejectedId, b⟩] })

/-- R125, R126, R127: AwaitLength, too short, too long, accepted. The premise `30 ≤ CAP` is R8's. -/
def Obligations.ByteInAwaitLength : Prop :=
  ∀ (s : State) (b : Byte) (rest : List Byte), s.offers b rest → s.dec.state = .awaitLength → 30 ≤ s.params.cap →
    let rejected (c : OutcomeCode) : State :=
      { s.tookByte rest with
        dec := { state := .awaitSync1, idReg := 0, lenReg := 0, count := 0, acc := 0 }
        evt := some ⟨c, b⟩
        events := s.events ++ [⟨c, b⟩] }
    (b.toNat < 2 → step s = .next (rejected .headerRejectedShort)) ∧
    (s.params.cap - 4 < b.toNat → step s = .next (rejected .headerRejectedLong)) ∧
    (2 ≤ b.toNat → b.toNat ≤ s.params.cap - 4 → step s = .next
      { s.tookByte rest with
        rxBuf := s.rxBuf.write 3 b
        dec := { s.dec with lenReg := b, acc := s.dec.acc + b, count := 0, state := .accumulatePayload } })

/-- R128, R129: AccumulatePayload. The premises on the count and the length are the invariant's (R50 b, c). -/
def Obligations.ByteInAccumulate : Prop :=
  ∀ (s : State) (b : Byte) (rest : List Byte), s.offers b rest → s.dec.state = .accumulatePayload →
    s.dec.count.toNat < s.dec.lenReg.toNat → s.dec.lenReg.toNat + 4 ≤ s.params.cap →
    let stored := s.rxBuf.write (4 + s.dec.count.toNat) b
    (s.dec.count.toNat + 1 < s.dec.lenReg.toNat → step s = .next
      { s.tookByte rest with
        rxBuf := stored, dec := { s.dec with acc := s.dec.acc + b, count := s.dec.count + 1 } }) ∧
    (s.dec.count.toNat + 1 = s.dec.lenReg.toNat → step s = .next
      { s.tookByte rest with
        rxBuf := stored
        dec := { s.dec with count := s.dec.count + 1, state := .done }
        seq := { s.seq with phase := .validate } })

/-- R131, R235: the timeout event, ignored outside IDLE; in IDLE judged by decoder state, on the state before when no byte
is offered, and on the state after the byte step when a byte is offered at the same instant. -/
def Obligations.TimeoutEvent : Prop :=
  ∀ s : State, s.nextTurn = .timeout →
    let resynced (u : State) : State :=
      { u with dec := { state := .awaitSync1, idReg := 0, lenReg := 0, count := 0, acc := 0 } }
    let truncated (u : State) (n : Nat) : State :=
      { resynced u with
        evt := some ⟨.frameTruncated, BitVec.ofNat 8 (min n 255)⟩
        events := u.events ++ [⟨.frameTruncated, BitVec.ofNat 8 (min n 255)⟩] }
    let timedOut (u : State) : State :=
      match u.dec.state with
      | .awaitSync1 | .done => u
      | .awaitSync2 => resynced u
      | .awaitId => truncated u 2
      | .awaitLength => truncated u 3
      | .accumulatePayload => truncated u (4 + u.dec.count.toNat)
    (s.seq.phase ≠ .idle → step s = .next s.beginStep) ∧
    (s.seq.phase = .idle → s.env.rxLine = [] → step s = .next (timedOut s.beginStep)) ∧
    (s.seq.phase = .idle → s.env.rxLine ≠ [] →
      ∀ u, step { s with env := { s.beginStep.env with script := .core :: s.beginStep.env.script } } = .next u →
        step s = .next (if u.seq.phase = .idle then timedOut u else u))

/-- R133: with no byte and no timeout, in IDLE, the core's turn changes nothing but the one-step outputs. -/
def Obligations.IdleCoreWaits : Prop :=
  ∀ s : State, s.coreIn .idle → s.env.rxLine = [] → step s = .next s.beginStep

/-- R121, R198, R40: outside IDLE no waiting byte is consumed, and no step ever drops one: at most the oldest is taken,
and a byte offered goes behind those that wait. -/
def Obligations.WaitingBytesKeptInOrder : Prop :=
  ∀ s t : State, step s = .next t →
    let offered : List Byte := match s.nextTurn with | .offerByte b => [b] | _ => []
    (s.seq.phase ≠ .idle → t.env.rxLine = s.env.rxLine ++ offered) ∧
    (t.env.rxLine = s.env.rxLine ++ offered ∨ ∃ b, s.env.rxLine = b :: t.env.rxLine ∧ offered = [])

/-- R134 (b), R128, R102: from AwaitSync1 a frame with an accepted length reaches Done exactly at its last byte, whatever
its content, with its bytes in `rx_buf` and the sum of its covered bytes in `dec.acc`. Only the core moves here;
`SplitFrameReachesDone` admits the other agents. -/
def Obligations.FrameReachesDone : Prop :=
  ∀ (s : State) (len : Byte) (body rest : List Byte), s.alone → s.seq.phase = .idle → s.dec.state = .awaitSync1 →
    s.rxBuf.wf = true → 2 ≤ len.toNat → len.toNat + 4 ≤ s.params.cap → body.length = len.toNat →
    s.env.rxLine = 0xFF :: 0xFF :: 0x01 :: len :: (body ++ rest) →
    (∀ m, m < len.toNat + 4 → ∃ u, runSteps m s = .next u ∧ u.seq.phase = .idle ∧ u.dec.state ≠ .done) ∧
    ∃ t, runSteps (len.toNat + 4) s = .next t ∧ t.seq.phase = .validate ∧ t.dec.state = .done ∧ t.dec.lenReg = len ∧
      t.rxBuf.slice 0 (len.toNat + 4) = 0xFF :: 0xFF :: 0x01 :: len :: body ∧
      t.dec.acc = sum8 (0x01 :: len :: body.dropLast) ∧ t.env.rxLine = rest ∧ t.events = s.events ∧ t.sent = s.sent ∧
      t.reg = s.reg

/-- R137, with only the core moving: from AwaitSync1 a run of `n` bytes `0xFF` followed by `01` reaches AwaitLength exactly
when `n mod 3 = 2`. -/
def Obligations.SyncRunLocksModThree : Prop :=
  ∀ (n : Nat) (s : State) (rest : List Byte), s.alone → s.seq.phase = .idle → s.dec.state = .awaitSync1 →
    s.env.rxLine = List.replicate n 0xFF ++ 0x01 :: rest →
    ∃ t, runSteps (n + 1) s = .next t ∧ t.dec.state = if n % 3 = 2 then .awaitLength else .awaitSync1

/-- R134 (a), with only the core moving: bytes other than `0xFF` keep the decoder in AwaitSync1 and raise no outcome. -/
def Obligations.NoiseIsDiscarded : Prop :=
  ∀ (noise rest : List Byte) (s : State), s.alone → s.seq.phase = .idle → s.dec.state = .awaitSync1 →
    (∀ b ∈ noise, b ≠ 0xFF) → s.env.rxLine = noise ++ rest →
    ∃ t, runSteps noise.length s = .next t ∧ t.dec = s.dec ∧ t.rxBuf = s.rxBuf ∧ t.events = s.events ∧
      t.seq = s.seq ∧ t.env.rxLine = rest

/-! ### The two instructions (42_dispatcher.md) -/

/-- R162, R165, R167: a control frame of length 26 under CLAMP, or with every goal in range, is accepted. -/
def Obligations.ControlAcceptedCompletes : Prop :=
  ∀ (g : Vector Half 12) (s : State), (s.params.policy = .clamp ∨ ∀ k : Fin 12, g[k] ≤ 1023) →
    exec (.instControl (.goals g)) s = .next
      { s with
        seq :=
          { phase := if s.env.adminEnable then .write else .gather
            k := 0
            outcome := some (if s.env.adminEnable then .controlApplied else .controlNotApplied)
            arg := BitVec.ofNat 8 ((List.finRange 12).countP fun k : Fin 12 => decide (1023 < g[k]))
            goalStage := tabulate12 fun k => if 1023 < g[k] then 1023 else g[k] } }

/-- R166: under REJECT a goal above 1023 rejects the whole frame, with the least such index. -/
def Obligations.ControlOutOfRangeRejected : Prop :=
  ∀ (g : Vector Half 12) (s : State) (k : Fin 12), s.params.policy = .reject → 1023 < g[k] →
    (∀ j : Fin 12, j < k → g[j] ≤ 1023) →
    exec (.instControl (.goals g)) s = .next
      { s with
        seq := { s.seq with outcome := some .positionOutOfRange, arg := BitVec.ofNat 8 k.val, phase := .clear } }

/-- R163: a control frame of another length. -/
def Obligations.ControlWrongLengthCompletes : Prop :=
  ∀ (p : List Byte) (s : State),
    exec (.instControl (.wrongLength p)) s = .next
      { s with seq := { s.seq with outcome := some .invalidPayloadLength, arg := s.dec.lenReg, phase := .clear } }

/-- R170: any other instruction byte, with any payload. -/
def Obligations.OtherInstructionCompletes : Prop :=
  ∀ (instr : Byte) (p : List Byte) (s : State),
    exec (.instOther instr p) s = .next
      { s with seq := { s.seq with outcome := some .unknownInstruction, arg := instr, phase := .clear } }

/-- R162, R168, R170: what `INST_CONTROL` and `INST_OTHER` leave unchanged. Both write sequencer registers only, and
`seq.goal_stage` and `seq.k` only where a control frame is accepted. -/
def Obligations.InstructionFrame : Prop :=
  ∀ (i : Instr) (s t : State), exec i s = .next t →
    t.params = s.params ∧ t.dec = s.dec ∧ (∀ a, t.rxBuf.read a = s.rxBuf.read a) ∧
    (∀ a, t.txBuf.read a = s.txBuf.read a) ∧ t.reg = s.reg ∧ t.env = s.env ∧ t.evt = s.evt ∧ t.bRdata = s.bRdata ∧
    t.events = s.events ∧ t.sent = s.sent ∧ t.draws = s.draws ∧
    (t.seq.phase = .clear → t.seq.goalStage = s.seq.goalStage ∧ t.seq.k = s.seq.k) ∧
    (t.seq.phase ≠ .clear → ∃ g, i = .instControl (.goals g))

/-- R160, R161, R191: in VALIDATE, when the bytes in `rx_buf` decode to an instruction and `dec.acc` is the sum of the
covered bytes (R102), the step is that instruction's, on the state with the turn used up. -/
def Obligations.StepRunsDecodedInstruction : Prop :=
  ∀ (s : State) (i : Instr), s.coreIn .validate →
    decode s.params.cap (s.rxBuf.slice 0 (s.dec.lenReg.toNat + 4)) = .ok i [] →
    s.dec.acc = sum8 (s.rxBuf.slice 2 (s.dec.lenReg.toNat + 1)) →
    step s = exec i s.beginStep

/-! ### The transaction (43_reply_frame.md) -/

/-- R160, R226: a stored checksum that differs from the complement of the sum drops the frame, whatever its instruction. -/
def Obligations.ChecksumMismatchDropsFrame : Prop :=
  ∀ s : State, s.coreIn .validate → s.dec.lenReg.toNat + 4 ≤ s.params.cap →
    s.rxBuf.read (s.dec.lenReg.toNat + 3) ≠ ~~~ s.dec.acc →
    step s = .next
      { s.beginStep with
        seq :=
          { s.seq with
            outcome := some .checksumMismatch, arg := s.rxBuf.read (s.dec.lenReg.toNat + 3), phase := .clear } }

/-- R234: the fixed order of the VALIDATE checks, and the phase each leads to. -/
def Obligations.ValidateChecksInOrder : Prop :=
  ∀ s : State, s.coreIn .validate → 2 ≤ s.dec.lenReg.toNat → s.dec.lenReg.toNat + 4 ≤ s.params.cap →
    let goal (k : Fin 12) : Nat := (s.rxBuf.read (5 + 2 * k.val)).toNat + 256 * (s.rxBuf.read (6 + 2 * k.val)).toNat
    ∃ t, step s = .next t ∧
      (if s.rxBuf.read (s.dec.lenReg.toNat + 3) ≠ ~~~ s.dec.acc then
        t.seq.outcome = some .checksumMismatch ∧ t.seq.phase = .clear
      else if s.rxBuf.read 4 ≠ 0x01 then
        t.seq.outcome = some .unknownInstruction ∧ t.seq.phase = .clear
      else if s.dec.lenReg ≠ 26 then
        t.seq.outcome = some .invalidPayloadLength ∧ t.seq.phase = .clear
      else if s.params.policy = .reject ∧ ∃ k, 1023 < goal k then
        t.seq.outcome = some .positionOutOfRange ∧ t.seq.phase = .clear
      else if s.env.adminEnable = true then
        t.seq.outcome = some .controlApplied ∧ t.seq.phase = .write ∧ t.seq.k = 0
      else t.seq.outcome = some .controlNotApplied ∧ t.seq.phase = .gather ∧ t.seq.k = 0)

/-- R85, R164, R165: an accepted control frame stages, for each servo index, its little-endian goal, at most 1023. -/
def Obligations.ValidateStagesGoals : Prop :=
  ∀ s t : State, s.coreIn .validate → step s = .next t → t.seq.phase ≠ .clear →
    ∀ k : Fin 12, t.seq.goalStage[k].toNat =
      min ((s.rxBuf.read (5 + 2 * k.val)).toNat + 256 * (s.rxBuf.read (6 + 2 * k.val)).toNat) 1023

/-- R192: WRITE step `k`. -/
def Obligations.WriteStepWritesOneGoal : Prop :=
  ∀ (s : State) (k : Fin 12), s.coreIn .write → s.seq.k.toNat = k.val →
    step s = .next
      { s.beginStep with
        reg := s.reg.set k.val { s.reg[k] with goalPosition := s.seq.goalStage[k] } k.isLt
        seq := if k.val < 11 then { s.seq with k := s.seq.k + 1 } else { s.seq with phase := .gather, k := 0 } }

/-- R193: GATHER step `k`, for the positions, the loads and the sensor words. -/
def Obligations.GatherStepReadsOneField : Prop :=
  ∀ s : State, s.coreIn .gather →
    let advanced : Sequencer :=
      if s.seq.k.toNat < 28 then { s.seq with k := s.seq.k + 1 } else { s.seq with phase := .seal }
    (∀ j : Fin 12, s.seq.k.toNat = j.val →
      let v := s.reg[j].presentPosition
      step s = .next
        { s.beginStep with
          txBuf := (s.txBuf.write (5 + 2 * j.val) (v.extractLsb' 0 8)).write (6 + 2 * j.val) (v.extractLsb' 8 8)
          seq := advanced }) ∧
    (∀ j : Fin 12, s.seq.k.toNat = 12 + j.val →
      let v := s.reg[j].presentLoad
      step s = .next
        { s.beginStep with
          txBuf := (s.txBuf.write (29 + 2 * j.val) (v.extractLsb' 0 8)).write (30 + 2 * j.val) (v.extractLsb' 8 8)
          seq := advanced }) ∧
    (∀ m : Fin 5, s.seq.k.toNat = 24 + m.val →
      let w := s.env.sensorFeed.headD
        (Config.sensorDraw ([Sensor.imuRoll, .imuPitch, .imuYaw, .pwrVoltage, .pwrCurrent].getD m.val .imuRoll) s.draws)
      step s = .next
        { s.beginStep with
          txBuf := (((s.txBuf.write (53 + 4 * m.val) (w.extractLsb' 0 8)).write (54 + 4 * m.val)
            (w.extractLsb' 8 8)).write (55 + 4 * m.val) (w.extractLsb' 16 8)).write (56 + 4 * m.val) (w.extractLsb' 24 8)
          seq := advanced
          env := { s.beginStep.env with sensorFeed := s.env.sensorFeed.tail }
          draws := s.draws + 1 })

/-- R194, R195, R106: SEAL writes the header and the checksum over the bytes that will be sent, and nothing else of
`tx_buf`. -/
def Obligations.SealStepCompletesReply : Prop :=
  ∀ s : State, s.coreIn .seal → s.txBuf.wf = true →
    ∃ t, step s = .next t ∧
      t = { s.beginStep with txBuf := t.txBuf, seq := { s.seq with phase := .emit, k := 0 } } ∧
      t.txBuf.slice 0 5 = [0xFF, 0xFF, 0x01, 0x46, 0x00] ∧
      t.txBuf.read 73 = compute ([0x01, 0x46, 0x00] ++ s.txBuf.slice 5 68) ∧
      (∀ a, 5 ≤ a → a ≠ 73 → t.txBuf.read a = s.txBuf.read a)

/-- R196: EMIT step `k`; with `tx_ready = 0` the byte is held. -/
def Obligations.EmitStepSendsOneByte : Prop :=
  ∀ (s : State) (k : Fin 74), s.coreIn .emit → s.seq.k.toNat = k.val →
    (s.env.txReady = true → step s = .next
      { s.beginStep with
        sent := s.sent ++ [s.txBuf.read k.val]
        seq := if k.val < 73 then { s.seq with k := s.seq.k + 1 } else { s.seq with phase := .clear } }) ∧
    (s.env.txReady = false → step s = .next s.beginStep ∧ s.beginStep.txValid = true ∧
      s.beginStep.txData = s.txBuf.read k.val)

/-- R276, R196: if `tx_ready` stays 0 the block stays in EMIT for ever, whatever the other agents do: no byte is sent, none
is taken, no outcome. The premise shuts out two kinds of turn only: one that raises `tx_ready`, and a reset (R263). -/
def Obligations.TransmitHang : Prop :=
  ∀ (n : Nat) (s : State), s.seq.phase = .emit → s.seq.k.toNat < 74 → s.env.txReady = false →
    (∀ m, m < n → s.env.turnAt m ≠ .setTxReady true ∧ s.env.turnAt m ≠ .reset) →
    ∃ t, runSteps n s = .next t ∧ t.seq = s.seq ∧ t.sent = s.sent ∧ t.events = s.events ∧ t.dec = s.dec ∧
      t.env.rxLine = s.env.rxLine ++ s.env.offeredIn n ∧ t.txData = s.txData ∧ t.txValid = true ∧ t.rxReady = false

/-- R197: CLEAR. The invariant says which outcomes the register can hold there. -/
def Obligations.ClearStepEmitsOutcome : Prop :=
  ∀ s : State, s.Inv → s.coreIn .clear →
    ∃ c ∈ [OutcomeCode.checksumMismatch, .unknownInstruction, .invalidPayloadLength, .positionOutOfRange, .controlApplied,
        .controlNotApplied], ∃ t, s.seq.outcome = some c ∧ step s = .next t ∧ t.rxReady = true ∧ t.isDone = false ∧
      t.replyRequired = false ∧
      t = { s.beginStep with
        dec := { state := .awaitSync1, idReg := 0, lenReg := 0, count := 0, acc := 0 }
        evt := some ⟨c, s.seq.arg⟩
        events := s.events ++ [⟨c, s.seq.arg⟩]
        seq := { s.seq with phase := .idle, k := 0, outcome := none, arg := 0 } }

/-- R190, R199, R200, R86: with the sink accepting every byte and no other agent moving, an accepted control frame's
transaction ends after 117 steps past VALIDATE (105 where the goals are not written) in IDLE, having sent the 74 bytes
of one acknowledge frame and emitted its outcome once. -/
def Obligations.TransactionSendsOneReply : Prop :=
  ∀ (s : State) (c : OutcomeCode), s.alone → s.env.txReady = true → s.txBuf.wf = true → s.seq.k = 0 →
    s.seq.outcome = some c → (s.seq.phase = .write ∨ s.seq.phase = .gather) →
    ∃ t, runSteps (if s.seq.phase = .write then 117 else 105) s = .next t ∧ t.seq.phase = .idle ∧
      t.dec.state = .awaitSync1 ∧ t.sent = s.sent ++ replyFrame s.reg s.sensorWords ∧
      (replyFrame s.reg s.sensorWords).length = 74 ∧
      t.events = s.events ++ [⟨c, s.seq.arg⟩] ∧ t.env.rxLine = s.env.rxLine ∧
      (∀ k : Fin 12, t.reg[k].goalPosition =
        if s.seq.phase = .write then s.seq.goalStage[k] else s.reg[k].goalPosition)

/-- R190, R199, R226 to R228, with only the core moving: a frame that fails its checksum, its instruction or its control
length is over after two steps: nothing sent, no register-map access, one outcome, and the decoder cleared. -/
def Obligations.FailedTransactionSendsNothing : Prop :=
  ∀ s : State, s.alone → s.seq.phase = .validate → 2 ≤ s.dec.lenReg.toNat → s.dec.lenReg.toNat + 4 ≤ s.params.cap →
    let stored := s.rxBuf.read (s.dec.lenReg.toNat + 3)
    let instr := s.rxBuf.read 4
    stored ≠ ~~~ s.dec.acc ∨ instr ≠ 0x01 ∨ s.dec.lenReg ≠ 26 →
    ∃ t, runSteps 2 s = .next t ∧ t.seq.phase = .idle ∧ t.dec.state = .awaitSync1 ∧ t.sent = s.sent ∧ t.reg = s.reg ∧
      t.env.rxLine = s.env.rxLine ∧
      t.events = s.events ++
        [if stored ≠ ~~~ s.dec.acc then ⟨.checksumMismatch, stored⟩
         else if instr ≠ 0x01 then ⟨.unknownInstruction, instr⟩ else ⟨.invalidPayloadLength, s.dec.lenReg⟩]

/-- R172, with only the core moving: a control frame sent from AwaitSync1 with `admin_enable = 1` leaves its goals in the register map after its
WRITE steps: bit for bit when they are in range, and `min(P[k], 1023)` under CLAMP. No port-B write changes them. -/
def Obligations.ControlRoundTrip : Prop :=
  ∀ (s : State) (goals : Vector Half 12) (rest : List Byte), s.alone → s.seq.phase = .idle →
    s.dec.state = .awaitSync1 → s.rxBuf.wf = true → s.params.wf = true → s.env.adminEnable = true →
    (s.params.policy = .clamp ∨ ∀ k : Fin 12, goals[k] ≤ 1023) →
    s.env.rxLine = encode (.instControl (.goals goals)) ++ rest →
    ∃ t, runSteps 43 s = .next t ∧ t.seq.phase = .gather ∧
      (∀ k : Fin 12, t.reg[k].goalPosition.toNat = min goals[k].toNat 1023) ∧
      (∀ (k : Fin 12) (addr : BitVec 7) (v : Half),
        (t.busWrite addr v).reg[k].goalPosition = t.reg[k].goalPosition)

/-! ### Invariants (10_state.md R50, 40_checksum.md R102) -/

/-- R50 (a) to (d) with what makes them inductive: every step keeps them. -/
def Obligations.InvariantKept : Prop := ∀ s t : State, s.Inv → step s = .next t → t.Inv

/-- R26, R102: every step keeps what the decoder session says of `rx_buf`. -/
def Obligations.TrackingKept : Prop := ∀ s t : State, s.Inv → s.FrameTracked → step s = .next t → t.FrameTracked

/-- R49, R50: both hold at reset. -/
def Obligations.ResetMeetsInvariants : Prop := State.reset.Inv ∧ State.reset.FrameTracked

/-- R233: in every state that meets the invariants a step goes on: nothing faults and nothing is refused. -/
def Obligations.InvariantStepsNeverStop : Prop := ∀ s : State, s.Inv → ∃ t, step s = .next t

/-- R102: in Done the check against `dec.acc` and `verify` of the whole frame agree. -/
def Obligations.RunningSumAgreesWithVerify : Prop :=
  ∀ s : State, s.Inv → s.FrameTracked → s.dec.state = .done →
    (s.rxBuf.read (s.dec.lenReg.toNat + 3) = ~~~ s.dec.acc ↔
      verify (s.rxBuf.slice 2 (s.dec.lenReg.toNat + 2)) = true)

/-! ### Whole-machine rules -/

/-- R190: `seq.phase` moves only along the edges of R190, and only in a step of the core; a timeout may come with the
byte step that enters VALIDATE, and reset leads to IDLE. -/
def Obligations.PhaseMovesAlongEdges : Prop :=
  ∀ s t : State, step s = .next t → t.seq.phase ≠ s.seq.phase →
    (s.nextTurn = .reset ∧ t.seq.phase = .idle) ∨
    (s.nextTurn = .core ∧ phaseEdge s.seq.phase t.seq.phase = true) ∨
    (s.nextTurn = .timeout ∧ s.seq.phase = .idle ∧ t.seq.phase = .validate)

/-- R37, R76, R168: one writer per field. Outside reset `torque_switch` never changes, `goal_position[k]` changes only in
WRITE step `k`, and a telemetry field only by a port-B write to its own address. -/
def Obligations.SingleWriterPerField : Prop :=
  ∀ (s t : State) (k : Fin 12), step s = .next t → s.nextTurn ≠ .reset →
    t.reg[k].torqueSwitch = s.reg[k].torqueSwitch ∧
    (t.reg[k].goalPosition ≠ s.reg[k].goalPosition →
      s.coreIn .write ∧ s.seq.k.toNat = k.val ∧ t.reg[k].goalPosition = s.seq.goalStage[k]) ∧
    (t.reg[k].presentPosition ≠ s.reg[k].presentPosition →
      s.nextTurn = .bus ⟨true, BitVec.ofNat 7 (8 * k.val + 3), t.reg[k].presentPosition⟩) ∧
    (t.reg[k].presentVelocity ≠ s.reg[k].presentVelocity →
      s.nextTurn = .bus ⟨true, BitVec.ofNat 7 (8 * k.val + 4), t.reg[k].presentVelocity⟩) ∧
    (t.reg[k].presentLoad ≠ s.reg[k].presentLoad →
      s.nextTurn = .bus ⟨true, BitVec.ofNat 7 (8 * k.val + 5), t.reg[k].presentLoad⟩)

/-- R64, R65: what a port-B access does at every address: what a read returns, that it changes nothing, and that only the
telemetry fields take a write. -/
def Obligations.PortBAccess : Prop :=
  ∀ (s : State) (v : Half),
    (∀ (k : Fin 12) (f : Nat) (d : Half) (r : Servo),
      (f, d, r) ∈ [(0, BitVec.ofNat 16 (k.val + 1), s.reg[k]), (1, s.reg[k].torqueSwitch.setWidth 16, s.reg[k]),
        (2, s.reg[k].goalPosition, s.reg[k]),
        (3, s.reg[k].presentPosition, { s.reg[k] with presentPosition := v }),
        (4, s.reg[k].presentVelocity, { s.reg[k] with presentVelocity := v }),
        (5, s.reg[k].presentLoad, { s.reg[k] with presentLoad := v }), (6, 0, s.reg[k]), (7, 0, s.reg[k])] →
      (s.nextTurn = .bus ⟨false, BitVec.ofNat 7 (8 * k.val + f), v⟩ →
        step s = .next { s.beginStep with bRdata := some d }) ∧
      (s.nextTurn = .bus ⟨true, BitVec.ofNat 7 (8 * k.val + f), v⟩ →
        step s = .next { s.beginStep with reg := s.reg.set k.val r k.isLt })) ∧
    (∀ addr : BitVec 7, 0x60 ≤ addr →
      (s.nextTurn = .bus ⟨false, addr, v⟩ → step s = .next { s.beginStep with bRdata := some 0 }) ∧
      (s.nextTurn = .bus ⟨true, addr, v⟩ → step s = .next s.beginStep))

/-- R130, R77: from Done until CLEAR nothing rewrites the frame, its length or its sum. -/
def Obligations.DoneHoldsFrame : Prop :=
  ∀ s t : State, step s = .next t → s.seq.phase ≠ .idle → s.nextTurn ≠ .reset → ¬ s.coreIn .clear →
    t.rxBuf = s.rxBuf ∧ t.dec = s.dec

/-- R221: a step emits at most one outcome, which is on the outcome port in that step and in the trace after it. -/
def Obligations.OneOutcomePerStep : Prop :=
  ∀ s t : State, step s = .next t → t.events = s.events ++ t.evt.toList

/-- R235: decoder outcomes arise only in a step that starts in IDLE, and transaction outcomes only at CLEAR, where they come
from the sequencer's registers. -/
def Obligations.OutcomesByOrigin : Prop :=
  ∀ (s t : State) (e : Event), s.Inv → step s = .next t → t.evt = some e →
    (s.seq.phase = .idle ∧ (s.nextTurn = .core ∨ s.nextTurn = .timeout) ∧
      e.code ∈ [.headerRejectedId, .headerRejectedLong, .headerRejectedShort, .frameTruncated]) ∨
    (s.coreIn .clear ∧ s.seq.outcome = some e.code ∧ s.seq.arg = e.arg ∧
      e.code ∈ [.controlApplied, .controlNotApplied, .checksumMismatch, .unknownInstruction, .invalidPayloadLength,
        .positionOutOfRange])

/-- R41, R199: a byte passes the transmit port only in a step of the core in phase EMIT with `tx_ready = 1`, one a step. -/
def Obligations.OnlyEmitSends : Prop :=
  ∀ s t : State, step s = .next t → t.sent ≠ s.sent →
    s.coreIn .emit ∧ s.env.txReady = true ∧ t.sent = s.sent ++ [s.txData]

/-- R21, R27, R220: the numbers of the decoder states, the phases and the outcome codes. -/
def Obligations.RegisterEncodings : Prop :=
  [DecState.awaitSync1, .awaitSync2, .awaitId, .awaitLength, .accumulatePayload, .done].map DecState.code
    = [0, 1, 2, 3, 4, 5] ∧
  [Phase.idle, .validate, .write, .gather, .seal, .emit, .clear].map Phase.code = [0, 1, 2, 3, 4, 5, 6] ∧
  [none, some OutcomeCode.controlApplied, some .controlNotApplied, some .checksumMismatch, some .unknownInstruction,
    some .invalidPayloadLength, some .positionOutOfRange, some .headerRejectedId, some .headerRejectedLong,
    some .headerRejectedShort, some .frameTruncated].map outcomeRegCode
    = [0x0, 0x1, 0x2, 0x3, 0x4, 0x5, 0x6, 0x7, 0x8, 0x9, 0xA]

/-- R240, R242, R245: a turn of the environment moves its own input and nothing of the block. -/
def Obligations.EnvironmentTurns : Prop :=
  ∀ s : State,
    (∀ b, s.nextTurn = .offerByte b →
      step s = .next { s.beginStep with env := { s.beginStep.env with rxLine := s.env.rxLine ++ [b] } }) ∧
    (∀ v, s.nextTurn = .setTxReady v →
      step s = .next { s.beginStep with env := { s.beginStep.env with txReady := v } }) ∧
    (∀ v, s.nextTurn = .setAdminEnable v →
      step s = .next { s.beginStep with env := { s.beginStep.env with adminEnable := v } }) ∧
    (∀ w, s.nextTurn = .fixSensor w →
      step s = .next { s.beginStep with env := { s.beginStep.env with sensorFeed := s.env.sensorFeed ++ [w] } })

/-! ### Runs among the turns of the other agents (60_exceptions.md R240 to R245) -/

/-- R240, R242: every step uses up one turn, and the turns to come are those the environment holds: the script's, then the
later schedule's, which never ends (log 1, log 2). -/
def Obligations.StepsFollowSchedule : Prop :=
  (∀ s t : State, step s = .next t → ∀ n, t.env.turnAt n = s.env.turnAt (n + 1)) ∧
  ∀ (e : Env) (n : Nat), e.turnAt n =
    if h : n < e.script.length then e.script[n]
    else match e.later with
      | .quiet => .core
      | .cycle u us => (u :: us).getD ((n - e.script.length) % (us.length + 1)) .core
      | .free k => Config.freeTurn (k + (n - e.script.length))

/-- R133, R134 (b), R242: what `FrameReachesDone` says, for a frame that arrives in pieces, with any gaps and any turns of
the other agents between its bytes, but for a timeout (R242, R269) and a reset (R260). Once no more bytes wait than those
behind the frame, the run has passed a state in Done that holds it whole, exactly at its last byte. Turns: log 1. -/
def Obligations.SplitFrameReachesDone : Prop :=
  ∀ (n : Nat) (s t : State) (len : Byte) (body rest : List Byte), s.seq.phase = .idle → s.dec.state = .awaitSync1 →
    s.rxBuf.wf = true → 2 ≤ len.toNat → len.toNat + 4 ≤ s.params.cap → body.length = len.toNat →
    (∀ m, m < n → s.env.turnAt m ≠ .timeout ∧ s.env.turnAt m ≠ .reset) →
    s.env.rxLine ++ s.env.offeredIn n = 0xFF :: 0xFF :: 0x01 :: len :: (body ++ rest) →
    runSteps n s = .next t → t.env.rxLine.length ≤ rest.length →
    ∃ m u, m ≤ n ∧ runSteps m s = .next u ∧ u.seq.phase = .validate ∧ u.dec.state = .done ∧ u.dec.lenReg = len ∧
      u.rxBuf.slice 0 (len.toNat + 4) = 0xFF :: 0xFF :: 0x01 :: len :: body ∧
      u.dec.acc = sum8 (0x01 :: len :: body.dropLast) ∧ u.env.rxLine ++ u.env.offeredIn (n - m) = rest ∧
      u.events = s.events ∧ u.sent = s.sent

/-- R242, R134 (a): from AwaitSync1 an unending sequence of bytes other than `0xFF`, each offered and then taken, has no
effect and raises no outcome, however far it is followed. That an unending sequence is a schedule of turns is log 2. -/
def Obligations.UnendingNoiseIsTaken : Prop :=
  ∀ (noise : Nat → Byte) (n : Nat) (s : State), s.seq.phase = .idle → s.dec.state = .awaitSync1 → s.env.rxLine = [] →
    (∀ m, noise m ≠ 0xFF) →
    (∀ m, s.env.turnAt (2 * m) = .offerByte (noise m) ∧ s.env.turnAt (2 * m + 1) = .core) →
    ∃ t, runSteps (2 * n) s = .next t ∧ t.env.rxLine = [] ∧ t.dec = s.dec ∧ t.rxBuf = s.rxBuf ∧ t.seq = s.seq ∧
      t.events = s.events

/-- R134 (d), as R123 to R128 bound it (log 25): with only the core moving, the decoder is back in AwaitSync1 or has handed
a frame to VALIDATE after at most as many bytes as its state allows, `CAP - 1` at most; or after one timeout. -/
def Obligations.ReturnsToScanning : Prop :=
  ∀ s : State, s.Inv → s.seq.phase = .idle →
    let bound : Nat :=
      match s.dec.state with
      | .awaitSync1 | .done => 0
      | .awaitSync2 => s.params.cap - 1
      | .awaitId => s.params.cap - 2
      | .awaitLength => s.params.cap - 3
      | .accumulatePayload => s.dec.lenReg.toNat - s.dec.count.toNat
    (s.alone → bound ≤ s.env.rxLine.length → ∃ n t, n ≤ bound ∧ runSteps n s = .next t ∧
      (t.dec.state = .awaitSync1 ∨ t.seq.phase = .validate)) ∧
    (s.nextTurn = .timeout → ∃ t, step s = .next t ∧ (t.dec.state = .awaitSync1 ∨ t.seq.phase = .validate))
end

