-- ==== Sys2Proof/Laws/Codec.lean ====
section
/-! SUPPORT. The codec's small lemmas: vectors of twelve, sums, byte order. -/

namespace Sys2Proof

@[simp] theorem tabulate12_getElem {α : Type} (f : Fin 12 → α) (k : Nat) (h : k < 12) :
    (tabulate12 f)[k] = f ⟨k, h⟩ := by
  unfold tabulate12
  interval_cases k <;> rfl

@[simp] theorem sum8_nil : sum8 [] = 0 := rfl

@[simp] theorem sum8_cons (b : Byte) (bs : List Byte) : sum8 (b :: bs) = b + sum8 bs := rfl

@[simp] theorem sum8_append (as bs : List Byte) : sum8 (as ++ bs) = sum8 as + sum8 bs := by
  induction as with
  | nil => simp
  | cons a as ih => simp [ih, BitVec.add_assoc]

/-- A sum and its complement make `0xFF` (40_checksum.md R103). -/
theorem sum8_add_compute (bs : List Byte) : sum8 bs + compute bs = 0xFF := by
  unfold compute
  generalize sum8 bs = x
  bv_omega

/-- `verify` on covered bytes followed by a stored checksum (R101). -/
theorem verify_snoc (bs : List Byte) (c : Byte) : verify (bs ++ [c]) = decide (c = compute bs) := by
  simp [verify]

@[simp] theorem halfBytes_length (v : Half) : (halfBytes v).length = 2 := rfl

@[simp] theorem wordBytes_length (w : Word) : (wordBytes w).length = 4 := rfl

/-- A joined u16 as a number (30_encoding.md R85). -/
theorem half_toNat (lo hi : Byte) : (half lo hi).toNat = lo.toNat + 256 * hi.toNat := by
  unfold half
  have := lo.isLt
  rw [BitVec.toNat_append, Nat.shiftLeft_eq, Nat.mul_comm, ← Nat.two_pow_add_eq_or_of_lt (i := 8) (by omega)]
  omega

/-- Splitting a u16 into its bytes and joining them gives it back (R85, R87). -/
theorem half_of_bytes (v : Half) : half (v.extractLsb' 0 8) (v.extractLsb' 8 8) = v := by
  apply BitVec.eq_of_toNat_eq
  have := v.isLt
  rw [half_toNat, BitVec.extractLsb'_toNat, BitVec.extractLsb'_toNat, Nat.shiftRight_eq_div_pow,
    Nat.shiftRight_eq_div_pow]
  omega

/-- The bytes of a joined u16 are the bytes joined. -/
theorem halfBytes_half (lo hi : Byte) : halfBytes (half lo hi) = [lo, hi] := by
  have := lo.isLt
  have := hi.isLt
  unfold halfBytes
  simp only [List.cons.injEq, and_true]
  constructor <;> apply BitVec.eq_of_toNat_eq <;>
    rw [BitVec.extractLsb'_toNat, half_toNat, Nat.shiftRight_eq_div_pow] <;> omega

/-! ### Goals and their payload (R84, R85) -/

@[simp] theorem payloadOfGoals_length (g : Vector Half 12) : (payloadOfGoals g).length = 24 := by
  unfold payloadOfGoals
  rw [List.length_flatMap]
  simp

/-- Bytes `2k` and `2k + 1` of the byte pairs of a list of u16 are the bytes of element `k`. -/
theorem half_getD_flatMap (l : List Half) (k : Nat) (hk : k < l.length) :
    half ((l.flatMap halfBytes).getD (2 * k) 0) ((l.flatMap halfBytes).getD (2 * k + 1) 0) = l.getD k 0 := by
  induction l generalizing k with
  | nil => simp at hk
  | cons a t ih =>
    cases k with
    | zero => simpa [halfBytes] using half_of_bytes a
    | succ k =>
      have := ih k (by simpa using hk)
      simpa [halfBytes, Nat.mul_add, List.getD_eq_getElem?_getD] using this

/-- Goals survive being sent and assembled (R85). -/
theorem goalsOfPayload_payloadOfGoals (g : Vector Half 12) : goalsOfPayload (payloadOfGoals g) = g := by
  unfold goalsOfPayload payloadOfGoals
  ext i h
  rw [tabulate12_getElem]
  simp only
  rw [half_getD_flatMap _ _ (by simpa using h)]
  simp [List.getD_eq_getElem?_getD, h]

/-- A list of `2n` bytes is the bytes of the u16 its pairs make. -/
theorem flatMap_halfBytes_pairs (n : Nat) (p : List Byte) (h : p.length = 2 * n) :
    (List.range n).flatMap (fun k => halfBytes (half (p.getD (2 * k) 0) (p.getD (2 * k + 1) 0))) = p := by
  induction n generalizing p with
  | zero => simp at h; simp [h]
  | succ n ih =>
    match p, h with
    | [], h => simp at h
    | [_], h => simp at h; omega
    | a :: b :: t, h =>
      have := ih t (by simp at h; omega)
      rw [List.range_succ_eq_map, List.flatMap_cons, List.flatMap_map]
      conv_rhs => rw [← this]
      simp only [halfBytes_half]
      simp [Nat.mul_add, List.getD_eq_getElem?_getD]

/-- A control payload survives being assembled and sent again. -/
theorem payloadOfGoals_goalsOfPayload (p : List Byte) (h : p.length = 24) :
    payloadOfGoals (goalsOfPayload p) = p := by
  conv_rhs => rw [← flatMap_halfBytes_pairs 12 p h]
  rfl

/-! ### Instruction decode (42_dispatcher.md R161 to R163) -/

theorem instrOfBody_other {i : Byte} (p : List Byte) (h : i ≠ Config.instControl) : instrOfBody i p = .instOther i p :=
  if_neg h

theorem instrOfBody_goals {p : List Byte} (h : p.length = 24) :
    instrOfBody Config.instControl p = .instControl (.goals (goalsOfPayload p)) := by
  unfold instrOfBody
  rw [if_pos rfl, if_pos h]

theorem instrOfBody_wrongLength {p : List Byte} (h : p.length ≠ 24) :
    instrOfBody Config.instControl p = .instControl (.wrongLength p) := by
  unfold instrOfBody
  rw [if_pos rfl, if_neg h]

end Sys2Proof
end

