-- ==== Sys2Proof/Laws/Memory.lean ====
section
/-! SUPPORT. Byte buffers: read after write, and that every operation keeps the canonical form and the bound. -/

namespace Sys2Proof.Machine

@[simp] theorem Memory.read_nil (a : Nat) : Memory.read [] a = 0 := rfl

@[simp] theorem Memory.wf_nil : Memory.wf [] = true := rfl

@[simp] theorem Memory.below_nil (n : Nat) : Memory.below n [] = true := rfl

@[simp] theorem Memory.below_cons (n : Nat) (c : Host.Cell) (t : Memory) :
    Memory.below n (c :: t) = (decide (c.1 < n) && Memory.below n t) := rfl

/-- A lower bound on the addresses can be weakened. -/
theorem Memory.wfFrom_weaken {m : Memory} {lo hi : Nat} (h : Memory.wfFrom (some hi) m = true) (hle : lo ≤ hi) :
    Memory.wfFrom (some lo) m = true := by
  cases m with
  | nil => rfl
  | cons c t => simp [Memory.wfFrom] at *; exact ⟨⟨by omega, h.1.2⟩, h.2⟩

theorem Memory.wfFrom_none {m : Memory} {lo : Nat} (h : Memory.wfFrom (some lo) m = true) :
    Memory.wfFrom none m = true := by
  cases m with
  | nil => rfl
  | cons c t => simp [Memory.wfFrom] at *; exact ⟨h.1.2, h.2⟩

/-- Below the lowest listed address everything reads as zero. -/
theorem Memory.read_low {m : Memory} {lo a : Nat} (h : Memory.wfFrom (some lo) m = true) (ha : a ≤ lo) :
    m.read a = 0 := by
  induction m generalizing lo with
  | nil => rfl
  | cons c t ih =>
    simp [Memory.wfFrom] at h
    simp only [Memory.read, show a ≠ c.1 by omega, if_false]
    exact ih h.2 (by omega)

/-- Writing keeps every lower bound that the address meets. -/
theorem Memory.wfFrom_write {m : Memory} {lo : Option Nat} (a : Nat) (v : Byte) (h : Memory.wfFrom lo m = true)
    (ha : ∀ l, lo = some l → l < a) : Memory.wfFrom lo (m.write a v) = true := by
  induction m generalizing lo with
  | nil =>
    unfold Memory.write
    split
    · rfl
    · cases lo <;> simp_all [Memory.wfFrom]
  | cons c t ih =>
    have h' := h
    simp only [Memory.wfFrom, Bool.and_eq_true] at h
    obtain ⟨⟨h1, h2⟩, h3⟩ := h
    unfold Memory.write
    split
    · split
      · exact h'
      · cases lo <;> simp_all [Memory.wfFrom]
    · split
      · split
        · cases lo with
          | none => exact Memory.wfFrom_none h3
          | some l => exact Memory.wfFrom_weaken h3 (by simp at h1; omega)
        · subst a
          simp_all [Memory.wfFrom]
      · simp only [Memory.wfFrom, Bool.and_eq_true]
        exact ⟨⟨h1, h2⟩, ih h3 (by intro l hl; cases hl; omega)⟩

/-- A write keeps the canonical form. -/
theorem Memory.wf_write {m : Memory} (a : Nat) (v : Byte) (h : m.wf = true) : (m.write a v).wf = true :=
  Memory.wfFrom_write a v h (by simp)

/-- A write below the bound keeps the bound. -/
theorem Memory.below_write {m : Memory} {n a : Nat} (v : Byte) (h : m.below n = true) (ha : a < n) :
    (m.write a v).below n = true := by
  induction m with
  | nil => unfold Memory.write; split <;> simp [ha]
  | cons c t ih =>
    simp only [Memory.below_cons, Bool.and_eq_true, decide_eq_true_eq] at h
    have := ih h.2
    unfold Memory.write
    split <;> (try split) <;> (try split) <;> simp_all

/-- Read after write to the same address. -/
@[simp] theorem Memory.read_write_same {m : Memory} (a : Nat) (v : Byte) (h : m.wf = true) :
    (m.write a v).read a = v := by
  unfold Memory.wf at h
  generalize none = lo at h
  induction m generalizing lo with
  | nil => unfold Memory.write; split <;> simp_all [Memory.read]
  | cons c t ih =>
    simp only [Memory.wfFrom, Bool.and_eq_true] at h
    unfold Memory.write
    split
    · rename_i hlt
      split
      · rename_i hv
        simp only [Memory.read, show a ≠ c.1 by omega, if_false, hv]
        exact Memory.read_low h.2 (by omega)
      · simp [Memory.read]
    · split
      · rename_i heq
        split
        · rename_i hv
          rw [hv, heq]
          exact Memory.read_low h.2 (le_refl _)
        · simp [Memory.read]
      · rename_i hne
        simp only [Memory.read, hne, if_false]
        exact ih _ h.2

/-- A write leaves every other address alone. -/
theorem Memory.read_write_ne {m : Memory} {a x : Nat} (v : Byte) (hx : x ≠ a) : (m.write a v).read x = m.read x := by
  induction m with
  | nil => unfold Memory.write; split <;> simp [Memory.read, hx]
  | cons c t ih =>
    unfold Memory.write
    split
    · split <;> simp [Memory.read, hx]
    · split
      · rename_i heq
        subst heq
        split <;> simp [Memory.read, hx]
      · simp only [Memory.read, ih]

/-- Both laws in one. -/
theorem Memory.read_write {m : Memory} (a x : Nat) (v : Byte) (h : m.wf = true) :
    (m.write a v).read x = if x = a then v else m.read x := by
  split
  · subst x; exact Memory.read_write_same a v h
  · exact Memory.read_write_ne v ‹_›

/-- Storing consecutive bytes keeps the canonical form. -/
theorem Memory.wf_storeBytes {m : Memory} (a : Nat) (bs : List Byte) (h : m.wf = true) :
    (m.storeBytes a bs).wf = true := by
  induction bs generalizing m a with
  | nil => exact h
  | cons b bs ih => exact ih (a + 1) (Memory.wf_write a b h)

/-- Storing consecutive bytes below the bound keeps the bound. -/
theorem Memory.below_storeBytes {m : Memory} {n a : Nat} (bs : List Byte) (h : m.below n = true)
    (ha : a + bs.length ≤ n) : (m.storeBytes a bs).below n = true := by
  induction bs generalizing m a with
  | nil => exact h
  | cons b bs ih =>
    simp only [List.length_cons] at ha
    exact ih (Memory.below_write b h (by omega)) (by omega)

/-- What consecutive stores leave at each address. -/
theorem Memory.read_storeBytes {m : Memory} (a x : Nat) (bs : List Byte) (h : m.wf = true) :
    (m.storeBytes a bs).read x = if a ≤ x ∧ x < a + bs.length then bs.getD (x - a) 0 else m.read x := by
  induction bs generalizing m a with
  | nil => simp [Memory.storeBytes]
  | cons b bs ih =>
    rw [Memory.storeBytes, ih (a + 1) (Memory.wf_write a b h), Memory.read_write a x b h]
    by_cases h1 : x = a
    · subst h1; simp
    · by_cases h2 : a + 1 ≤ x ∧ x < a + 1 + bs.length
      · have e : x - a = (x - (a + 1)) + 1 := by omega
        simp only [h2, and_self, if_true, e, List.getD_cons_succ, List.length_cons]
        rw [if_pos (by omega)]
      · simp only [h2, h1, if_false, List.length_cons]
        rw [if_neg (by omega)]

@[simp] theorem Memory.slice_length (m : Memory) (a n : Nat) : (m.slice a n).length = n := by
  simp [Memory.slice]

@[simp] theorem Memory.slice_zero (m : Memory) (a : Nat) : m.slice a 0 = [] := rfl

/-- One byte more at the end of a slice. -/
theorem Memory.slice_succ (m : Memory) (a n : Nat) : m.slice a (n + 1) = m.slice a n ++ [m.read (a + n)] := by
  simp [Memory.slice, List.range_succ]

/-- A slice in two parts. -/
theorem Memory.slice_add (m : Memory) (a n k : Nat) : m.slice a (n + k) = m.slice a n ++ m.slice (a + n) k := by
  unfold Memory.slice
  rw [List.range_add, List.map_append, List.map_map]
  congr 2
  funext i
  simp [Nat.add_assoc]

/-- A byte of a slice. -/
theorem Memory.slice_getD (m : Memory) {a n j : Nat} (h : j < n) : (m.slice a n).getD j 0 = m.read (a + j) := by
  simp [Memory.slice, List.getD_eq_getElem?_getD, h]

/-- A slice depends on its own bytes only. -/
theorem Memory.slice_congr {m m' : Memory} {a n : Nat} (h : ∀ i, i < n → m.read (a + i) = m'.read (a + i)) :
    m.slice a n = m'.slice a n := by
  unfold Memory.slice
  apply List.map_congr_left
  intro i hi
  exact h i (List.mem_range.mp hi)

/-- A write outside a slice leaves it alone. -/
theorem Memory.slice_write_outside {m : Memory} {a n x : Nat} (v : Byte) (hx : x < a ∨ a + n ≤ x) :
    (m.write x v).slice a n = m.slice a n :=
  Memory.slice_congr fun i hi => Memory.read_write_ne v (by omega)

/-- Bytes stored right behind a slice make it longer. -/
theorem Memory.slice_storeBytes {m : Memory} {a n : Nat} (bs : List Byte) (h : m.wf = true) :
    (m.storeBytes (a + n) bs).slice a (n + bs.length) = m.slice a n ++ bs := by
  rw [Memory.slice_add]
  congr 1
  · apply Memory.slice_congr
    intro i hi
    rw [Memory.read_storeBytes _ _ _ h, if_neg (by omega)]
  · apply List.ext_getElem (by simp)
    intro i h1 h2
    simp only [Memory.slice, List.getElem_map, List.getElem_range]
    rw [Memory.read_storeBytes _ _ _ h, if_pos (by omega), show a + n + i - (a + n) = i by omega]
    simp [List.getD_eq_getElem?_getD, h2]

end Sys2Proof.Machine
end

