-- ==== Sys2Proof/Laws/Operands.lean ====
section
/-! SUPPORT. One spec lemma per operand function: range treatment (42_dispatcher.md R165, R166). -/

namespace Sys2Proof.Machine

theorem goalOutOfRange_iff (v : Half) : goalOutOfRange v = true ↔ 1023 < v := decide_eq_true_iff

theorem clampGoal_eq (v : Half) : clampGoal v = if 1023 < v then 1023 else v := by
  unfold clampGoal
  by_cases h : 1023 < v
  · rw [if_pos ((goalOutOfRange_iff v).mpr h), if_pos h]
  · rw [if_neg (fun hc => h ((goalOutOfRange_iff v).mp hc)), if_neg h]

/-- A staged goal is the lesser of the goal and 1023. -/
theorem clampGoal_toNat (v : Half) : (clampGoal v).toNat = min v.toNat 1023 := by
  rw [clampGoal_eq]
  split <;> bv_omega

theorem clampGoal_le (v : Half) : clampGoal v ≤ 1023 := by
  have := clampGoal_toNat v
  bv_omega

theorem clampGoals_getElem (g : Vector Half 12) (k : Nat) (h : k < 12) : (clampGoals g)[k] = clampGoal g[k] := by
  simp [clampGoals]

theorem clampGoals_eq (g : Vector Half 12) :
    clampGoals g = tabulate12 fun k => if 1023 < g[k] then 1023 else g[k] := by
  unfold clampGoals
  simp only [clampGoal_eq]

theorem toList_eq_finRange {α : Type} (g : Vector α 12) : g.toList = (List.finRange 12).map fun k => g[k] := by
  apply List.ext_getElem <;> simp

theorem clampCount_eq (g : Vector Half 12) :
    clampCount g = BitVec.ofNat 8 ((List.finRange 12).countP fun k : Fin 12 => decide (1023 < g[k])) := by
  unfold clampCount
  rw [toList_eq_finRange, ← List.countP_eq_length_filter, List.countP_map]
  rfl

theorem firstOutOfRange_eq_none (g : Vector Half 12) :
    firstOutOfRange g = none ↔ ∀ k : Fin 12, g[k] ≤ 1023 := by
  unfold firstOutOfRange
  rw [List.findIdx?_eq_none_iff, toList_eq_finRange]
  simp only [List.mem_map, List.mem_finRange, true_and, forall_exists_index, forall_apply_eq_imp_iff]
  apply forall_congr'
  intro k
  rw [← Bool.not_eq_true, goalOutOfRange_iff, BitVec.not_lt]

/-- The index REJECT reports is the least one out of range. -/
theorem firstOutOfRange_eq_some (g : Vector Half 12) (k : Fin 12) (h : 1023 < g[k])
    (hl : ∀ j : Fin 12, j < k → g[j] ≤ 1023) : firstOutOfRange g = some k.val := by
  unfold firstOutOfRange
  rw [List.findIdx?_eq_some_iff_getElem]
  refine ⟨by simp, ?_, ?_⟩
  · simpa [goalOutOfRange_iff] using h
  · intro j hj
    have := hl ⟨j, by omega⟩ hj
    rw [goalOutOfRange_iff]
    simpa [BitVec.not_lt] using this

end Sys2Proof.Machine
end

