-- ==== Sys2Proof/Laws/State.lean ====
section
/-! SUPPORT. One lemma per field per named update of State, true by rfl: what each update writes and what it leaves. -/

namespace Sys2Proof.Machine

variable (s : State)

/-! `State.writeRx` -/

@[simp] theorem State.writeRx_params (i : Nat) (b : Byte) : (s.writeRx i b).params = s.params := rfl
@[simp] theorem State.writeRx_dec (i : Nat) (b : Byte) : (s.writeRx i b).dec = s.dec := rfl
@[simp] theorem State.writeRx_rxBuf (i : Nat) (b : Byte) : (s.writeRx i b).rxBuf = s.rxBuf.write i b := rfl
@[simp] theorem State.writeRx_seq (i : Nat) (b : Byte) : (s.writeRx i b).seq = s.seq := rfl
@[simp] theorem State.writeRx_txBuf (i : Nat) (b : Byte) : (s.writeRx i b).txBuf = s.txBuf := rfl
@[simp] theorem State.writeRx_reg (i : Nat) (b : Byte) : (s.writeRx i b).reg = s.reg := rfl
@[simp] theorem State.writeRx_env (i : Nat) (b : Byte) : (s.writeRx i b).env = s.env := rfl
@[simp] theorem State.writeRx_evt (i : Nat) (b : Byte) : (s.writeRx i b).evt = s.evt := rfl
@[simp] theorem State.writeRx_bRdata (i : Nat) (b : Byte) : (s.writeRx i b).bRdata = s.bRdata := rfl
@[simp] theorem State.writeRx_events (i : Nat) (b : Byte) : (s.writeRx i b).events = s.events := rfl
@[simp] theorem State.writeRx_sent (i : Nat) (b : Byte) : (s.writeRx i b).sent = s.sent := rfl
@[simp] theorem State.writeRx_draws (i : Nat) (b : Byte) : (s.writeRx i b).draws = s.draws := rfl

/-! `State.storeTx` -/

@[simp] theorem State.storeTx_params (i : Nat) (bs : List Byte) : (s.storeTx i bs).params = s.params := rfl
@[simp] theorem State.storeTx_dec (i : Nat) (bs : List Byte) : (s.storeTx i bs).dec = s.dec := rfl
@[simp] theorem State.storeTx_rxBuf (i : Nat) (bs : List Byte) : (s.storeTx i bs).rxBuf = s.rxBuf := rfl
@[simp] theorem State.storeTx_seq (i : Nat) (bs : List Byte) : (s.storeTx i bs).seq = s.seq := rfl
@[simp] theorem State.storeTx_txBuf (i : Nat) (bs : List Byte) :
    (s.storeTx i bs).txBuf = s.txBuf.storeBytes i bs := rfl
@[simp] theorem State.storeTx_reg (i : Nat) (bs : List Byte) : (s.storeTx i bs).reg = s.reg := rfl
@[simp] theorem State.storeTx_env (i : Nat) (bs : List Byte) : (s.storeTx i bs).env = s.env := rfl
@[simp] theorem State.storeTx_evt (i : Nat) (bs : List Byte) : (s.storeTx i bs).evt = s.evt := rfl
@[simp] theorem State.storeTx_bRdata (i : Nat) (bs : List Byte) : (s.storeTx i bs).bRdata = s.bRdata := rfl
@[simp] theorem State.storeTx_events (i : Nat) (bs : List Byte) : (s.storeTx i bs).events = s.events := rfl
@[simp] theorem State.storeTx_sent (i : Nat) (bs : List Byte) : (s.storeTx i bs).sent = s.sent := rfl
@[simp] theorem State.storeTx_draws (i : Nat) (bs : List Byte) : (s.storeTx i bs).draws = s.draws := rfl

/-! `State.setServo` -/

@[simp] theorem State.setServo_params (k : Fin 12) (v : Servo) : (s.setServo k v).params = s.params := rfl
@[simp] theorem State.setServo_dec (k : Fin 12) (v : Servo) : (s.setServo k v).dec = s.dec := rfl
@[simp] theorem State.setServo_rxBuf (k : Fin 12) (v : Servo) : (s.setServo k v).rxBuf = s.rxBuf := rfl
@[simp] theorem State.setServo_seq (k : Fin 12) (v : Servo) : (s.setServo k v).seq = s.seq := rfl
@[simp] theorem State.setServo_txBuf (k : Fin 12) (v : Servo) : (s.setServo k v).txBuf = s.txBuf := rfl
@[simp] theorem State.setServo_reg (k : Fin 12) (v : Servo) : (s.setServo k v).reg = s.reg.set k.val v k.isLt := rfl
@[simp] theorem State.setServo_env (k : Fin 12) (v : Servo) : (s.setServo k v).env = s.env := rfl
@[simp] theorem State.setServo_evt (k : Fin 12) (v : Servo) : (s.setServo k v).evt = s.evt := rfl
@[simp] theorem State.setServo_bRdata (k : Fin 12) (v : Servo) : (s.setServo k v).bRdata = s.bRdata := rfl
@[simp] theorem State.setServo_events (k : Fin 12) (v : Servo) : (s.setServo k v).events = s.events := rfl
@[simp] theorem State.setServo_sent (k : Fin 12) (v : Servo) : (s.setServo k v).sent = s.sent := rfl
@[simp] theorem State.setServo_draws (k : Fin 12) (v : Servo) : (s.setServo k v).draws = s.draws := rfl

/-! `State.writeGoal` -/

@[simp] theorem State.writeGoal_params (k : Fin 12) (v : Half) : (s.writeGoal k v).params = s.params := rfl
@[simp] theorem State.writeGoal_dec (k : Fin 12) (v : Half) : (s.writeGoal k v).dec = s.dec := rfl
@[simp] theorem State.writeGoal_rxBuf (k : Fin 12) (v : Half) : (s.writeGoal k v).rxBuf = s.rxBuf := rfl
@[simp] theorem State.writeGoal_seq (k : Fin 12) (v : Half) : (s.writeGoal k v).seq = s.seq := rfl
@[simp] theorem State.writeGoal_txBuf (k : Fin 12) (v : Half) : (s.writeGoal k v).txBuf = s.txBuf := rfl
@[simp] theorem State.writeGoal_reg (k : Fin 12) (v : Half) :
    (s.writeGoal k v).reg = s.reg.set k.val { s.reg[k] with goalPosition := v } k.isLt := rfl
@[simp] theorem State.writeGoal_env (k : Fin 12) (v : Half) : (s.writeGoal k v).env = s.env := rfl
@[simp] theorem State.writeGoal_evt (k : Fin 12) (v : Half) : (s.writeGoal k v).evt = s.evt := rfl
@[simp] theorem State.writeGoal_bRdata (k : Fin 12) (v : Half) : (s.writeGoal k v).bRdata = s.bRdata := rfl
@[simp] theorem State.writeGoal_events (k : Fin 12) (v : Half) : (s.writeGoal k v).events = s.events := rfl
@[simp] theorem State.writeGoal_sent (k : Fin 12) (v : Half) : (s.writeGoal k v).sent = s.sent := rfl
@[simp] theorem State.writeGoal_draws (k : Fin 12) (v : Half) : (s.writeGoal k v).draws = s.draws := rfl

/-! `State.emitOutcome` -/

@[simp] theorem State.emitOutcome_params (c : OutcomeCode) (a : Byte) : (s.emitOutcome c a).params = s.params := rfl
@[simp] theorem State.emitOutcome_dec (c : OutcomeCode) (a : Byte) : (s.emitOutcome c a).dec = s.dec := rfl
@[simp] theorem State.emitOutcome_rxBuf (c : OutcomeCode) (a : Byte) : (s.emitOutcome c a).rxBuf = s.rxBuf := rfl
@[simp] theorem State.emitOutcome_seq (c : OutcomeCode) (a : Byte) : (s.emitOutcome c a).seq = s.seq := rfl
@[simp] theorem State.emitOutcome_txBuf (c : OutcomeCode) (a : Byte) : (s.emitOutcome c a).txBuf = s.txBuf := rfl
@[simp] theorem State.emitOutcome_reg (c : OutcomeCode) (a : Byte) : (s.emitOutcome c a).reg = s.reg := rfl
@[simp] theorem State.emitOutcome_env (c : OutcomeCode) (a : Byte) : (s.emitOutcome c a).env = s.env := rfl
@[simp] theorem State.emitOutcome_evt (c : OutcomeCode) (a : Byte) : (s.emitOutcome c a).evt = some ⟨c, a⟩ := rfl
@[simp] theorem State.emitOutcome_bRdata (c : OutcomeCode) (a : Byte) : (s.emitOutcome c a).bRdata = s.bRdata := rfl
@[simp] theorem State.emitOutcome_events (c : OutcomeCode) (a : Byte) :
    (s.emitOutcome c a).events = s.events ++ [⟨c, a⟩] := rfl
@[simp] theorem State.emitOutcome_sent (c : OutcomeCode) (a : Byte) : (s.emitOutcome c a).sent = s.sent := rfl
@[simp] theorem State.emitOutcome_draws (c : OutcomeCode) (a : Byte) : (s.emitOutcome c a).draws = s.draws := rfl

/-! `State.resync` -/

@[simp] theorem State.resync_params : (s.resync).params = s.params := rfl
@[simp] theorem State.resync_dec : (s.resync).dec = Decoder.reset := rfl
@[simp] theorem State.resync_rxBuf : (s.resync).rxBuf = s.rxBuf := rfl
@[simp] theorem State.resync_seq : (s.resync).seq = s.seq := rfl
@[simp] theorem State.resync_txBuf : (s.resync).txBuf = s.txBuf := rfl
@[simp] theorem State.resync_reg : (s.resync).reg = s.reg := rfl
@[simp] theorem State.resync_env : (s.resync).env = s.env := rfl
@[simp] theorem State.resync_evt : (s.resync).evt = s.evt := rfl
@[simp] theorem State.resync_bRdata : (s.resync).bRdata = s.bRdata := rfl
@[simp] theorem State.resync_events : (s.resync).events = s.events := rfl
@[simp] theorem State.resync_sent : (s.resync).sent = s.sent := rfl
@[simp] theorem State.resync_draws : (s.resync).draws = s.draws := rfl

/-! `State.rejectFrame` -/

@[simp] theorem State.rejectFrame_params (c : OutcomeCode) (a : Byte) : (s.rejectFrame c a).params = s.params := rfl
@[simp] theorem State.rejectFrame_dec (c : OutcomeCode) (a : Byte) : (s.rejectFrame c a).dec = Decoder.reset := rfl
@[simp] theorem State.rejectFrame_rxBuf (c : OutcomeCode) (a : Byte) : (s.rejectFrame c a).rxBuf = s.rxBuf := rfl
@[simp] theorem State.rejectFrame_seq (c : OutcomeCode) (a : Byte) : (s.rejectFrame c a).seq = s.seq := rfl
@[simp] theorem State.rejectFrame_txBuf (c : OutcomeCode) (a : Byte) : (s.rejectFrame c a).txBuf = s.txBuf := rfl
@[simp] theorem State.rejectFrame_reg (c : OutcomeCode) (a : Byte) : (s.rejectFrame c a).reg = s.reg := rfl
@[simp] theorem State.rejectFrame_env (c : OutcomeCode) (a : Byte) : (s.rejectFrame c a).env = s.env := rfl
@[simp] theorem State.rejectFrame_evt (c : OutcomeCode) (a : Byte) : (s.rejectFrame c a).evt = some ⟨c, a⟩ := rfl
@[simp] theorem State.rejectFrame_bRdata (c : OutcomeCode) (a : Byte) : (s.rejectFrame c a).bRdata = s.bRdata := rfl
@[simp] theorem State.rejectFrame_events (c : OutcomeCode) (a : Byte) :
    (s.rejectFrame c a).events = s.events ++ [⟨c, a⟩] := rfl
@[simp] theorem State.rejectFrame_sent (c : OutcomeCode) (a : Byte) : (s.rejectFrame c a).sent = s.sent := rfl
@[simp] theorem State.rejectFrame_draws (c : OutcomeCode) (a : Byte) : (s.rejectFrame c a).draws = s.draws := rfl

/-! `State.setDecState` -/

@[simp] theorem State.setDecState_params (d : DecState) : (s.setDecState d).params = s.params := rfl
@[simp] theorem State.setDecState_dec (d : DecState) : (s.setDecState d).dec = { s.dec with state := d } := rfl
@[simp] theorem State.setDecState_rxBuf (d : DecState) : (s.setDecState d).rxBuf = s.rxBuf := rfl
@[simp] theorem State.setDecState_seq (d : DecState) : (s.setDecState d).seq = s.seq := rfl
@[simp] theorem State.setDecState_txBuf (d : DecState) : (s.setDecState d).txBuf = s.txBuf := rfl
@[simp] theorem State.setDecState_reg (d : DecState) : (s.setDecState d).reg = s.reg := rfl
@[simp] theorem State.setDecState_env (d : DecState) : (s.setDecState d).env = s.env := rfl
@[simp] theorem State.setDecState_evt (d : DecState) : (s.setDecState d).evt = s.evt := rfl
@[simp] theorem State.setDecState_bRdata (d : DecState) : (s.setDecState d).bRdata = s.bRdata := rfl
@[simp] theorem State.setDecState_events (d : DecState) : (s.setDecState d).events = s.events := rfl
@[simp] theorem State.setDecState_sent (d : DecState) : (s.setDecState d).sent = s.sent := rfl
@[simp] theorem State.setDecState_draws (d : DecState) : (s.setDecState d).draws = s.draws := rfl

/-! `State.failFrame` -/

@[simp] theorem State.failFrame_params (c : OutcomeCode) (a : Byte) : (s.failFrame c a).params = s.params := rfl
@[simp] theorem State.failFrame_dec (c : OutcomeCode) (a : Byte) : (s.failFrame c a).dec = s.dec := rfl
@[simp] theorem State.failFrame_rxBuf (c : OutcomeCode) (a : Byte) : (s.failFrame c a).rxBuf = s.rxBuf := rfl
@[simp] theorem State.failFrame_seq (c : OutcomeCode) (a : Byte) :
    (s.failFrame c a).seq = { s.seq with outcome := some c, arg := a, phase := .clear } := rfl
@[simp] theorem State.failFrame_txBuf (c : OutcomeCode) (a : Byte) : (s.failFrame c a).txBuf = s.txBuf := rfl
@[simp] theorem State.failFrame_reg (c : OutcomeCode) (a : Byte) : (s.failFrame c a).reg = s.reg := rfl
@[simp] theorem State.failFrame_env (c : OutcomeCode) (a : Byte) : (s.failFrame c a).env = s.env := rfl
@[simp] theorem State.failFrame_evt (c : OutcomeCode) (a : Byte) : (s.failFrame c a).evt = s.evt := rfl
@[simp] theorem State.failFrame_bRdata (c : OutcomeCode) (a : Byte) : (s.failFrame c a).bRdata = s.bRdata := rfl
@[simp] theorem State.failFrame_events (c : OutcomeCode) (a : Byte) : (s.failFrame c a).events = s.events := rfl
@[simp] theorem State.failFrame_sent (c : OutcomeCode) (a : Byte) : (s.failFrame c a).sent = s.sent := rfl
@[simp] theorem State.failFrame_draws (c : OutcomeCode) (a : Byte) : (s.failFrame c a).draws = s.draws := rfl

/-! `State.acceptControl` -/

@[simp] theorem State.acceptControl_params (g : Vector Half 12) (c : OutcomeCode) (a : Byte) (p : Phase) :
    (s.acceptControl g c a p).params = s.params := rfl
@[simp] theorem State.acceptControl_dec (g : Vector Half 12) (c : OutcomeCode) (a : Byte) (p : Phase) :
    (s.acceptControl g c a p).dec = s.dec := rfl
@[simp] theorem State.acceptControl_rxBuf (g : Vector Half 12) (c : OutcomeCode) (a : Byte) (p : Phase) :
    (s.acceptControl g c a p).rxBuf = s.rxBuf := rfl
@[simp] theorem State.acceptControl_seq (g : Vector Half 12) (c : OutcomeCode) (a : Byte) (p : Phase) :
    (s.acceptControl g c a p).seq = { phase := p, k := 0, outcome := some c, arg := a, goalStage := g } := rfl
@[simp] theorem State.acceptControl_txBuf (g : Vector Half 12) (c : OutcomeCode) (a : Byte) (p : Phase) :
    (s.acceptControl g c a p).txBuf = s.txBuf := rfl
@[simp] theorem State.acceptControl_reg (g : Vector Half 12) (c : OutcomeCode) (a : Byte) (p : Phase) :
    (s.acceptControl g c a p).reg = s.reg := rfl
@[simp] theorem State.acceptControl_env (g : Vector Half 12) (c : OutcomeCode) (a : Byte) (p : Phase) :
    (s.acceptControl g c a p).env = s.env := rfl
@[simp] theorem State.acceptControl_evt (g : Vector Half 12) (c : OutcomeCode) (a : Byte) (p : Phase) :
    (s.acceptControl g c a p).evt = s.evt := rfl
@[simp] theorem State.acceptControl_bRdata (g : Vector Half 12) (c : OutcomeCode) (a : Byte) (p : Phase) :
    (s.acceptControl g c a p).bRdata = s.bRdata := rfl
@[simp] theorem State.acceptControl_events (g : Vector Half 12) (c : OutcomeCode) (a : Byte) (p : Phase) :
    (s.acceptControl g c a p).events = s.events := rfl
@[simp] theorem State.acceptControl_sent (g : Vector Half 12) (c : OutcomeCode) (a : Byte) (p : Phase) :
    (s.acceptControl g c a p).sent = s.sent := rfl
@[simp] theorem State.acceptControl_draws (g : Vector Half 12) (c : OutcomeCode) (a : Byte) (p : Phase) :
    (s.acceptControl g c a p).draws = s.draws := rfl

/-! `State.setPhase` -/

@[simp] theorem State.setPhase_params (p : Phase) : (s.setPhase p).params = s.params := rfl
@[simp] theorem State.setPhase_dec (p : Phase) : (s.setPhase p).dec = s.dec := rfl
@[simp] theorem State.setPhase_rxBuf (p : Phase) : (s.setPhase p).rxBuf = s.rxBuf := rfl
@[simp] theorem State.setPhase_seq (p : Phase) : (s.setPhase p).seq = { s.seq with phase := p } := rfl
@[simp] theorem State.setPhase_txBuf (p : Phase) : (s.setPhase p).txBuf = s.txBuf := rfl
@[simp] theorem State.setPhase_reg (p : Phase) : (s.setPhase p).reg = s.reg := rfl
@[simp] theorem State.setPhase_env (p : Phase) : (s.setPhase p).env = s.env := rfl
@[simp] theorem State.setPhase_evt (p : Phase) : (s.setPhase p).evt = s.evt := rfl
@[simp] theorem State.setPhase_bRdata (p : Phase) : (s.setPhase p).bRdata = s.bRdata := rfl
@[simp] theorem State.setPhase_events (p : Phase) : (s.setPhase p).events = s.events := rfl
@[simp] theorem State.setPhase_sent (p : Phase) : (s.setPhase p).sent = s.sent := rfl
@[simp] theorem State.setPhase_draws (p : Phase) : (s.setPhase p).draws = s.draws := rfl

/-! `State.nextK` -/

@[simp] theorem State.nextK_params : (s.nextK).params = s.params := rfl
@[simp] theorem State.nextK_dec : (s.nextK).dec = s.dec := rfl
@[simp] theorem State.nextK_rxBuf : (s.nextK).rxBuf = s.rxBuf := rfl
@[simp] theorem State.nextK_seq : (s.nextK).seq = { s.seq with k := s.seq.k + 1 } := rfl
@[simp] theorem State.nextK_txBuf : (s.nextK).txBuf = s.txBuf := rfl
@[simp] theorem State.nextK_reg : (s.nextK).reg = s.reg := rfl
@[simp] theorem State.nextK_env : (s.nextK).env = s.env := rfl
@[simp] theorem State.nextK_evt : (s.nextK).evt = s.evt := rfl
@[simp] theorem State.nextK_bRdata : (s.nextK).bRdata = s.bRdata := rfl
@[simp] theorem State.nextK_events : (s.nextK).events = s.events := rfl
@[simp] theorem State.nextK_sent : (s.nextK).sent = s.sent := rfl
@[simp] theorem State.nextK_draws : (s.nextK).draws = s.draws := rfl

/-! `State.startPhase` -/

@[simp] theorem State.startPhase_params (p : Phase) : (s.startPhase p).params = s.params := rfl
@[simp] theorem State.startPhase_dec (p : Phase) : (s.startPhase p).dec = s.dec := rfl
@[simp] theorem State.startPhase_rxBuf (p : Phase) : (s.startPhase p).rxBuf = s.rxBuf := rfl
@[simp] theorem State.startPhase_seq (p : Phase) : (s.startPhase p).seq = { s.seq with phase := p, k := 0 } := rfl
@[simp] theorem State.startPhase_txBuf (p : Phase) : (s.startPhase p).txBuf = s.txBuf := rfl
@[simp] theorem State.startPhase_reg (p : Phase) : (s.startPhase p).reg = s.reg := rfl
@[simp] theorem State.startPhase_env (p : Phase) : (s.startPhase p).env = s.env := rfl
@[simp] theorem State.startPhase_evt (p : Phase) : (s.startPhase p).evt = s.evt := rfl
@[simp] theorem State.startPhase_bRdata (p : Phase) : (s.startPhase p).bRdata = s.bRdata := rfl
@[simp] theorem State.startPhase_events (p : Phase) : (s.startPhase p).events = s.events := rfl
@[simp] theorem State.startPhase_sent (p : Phase) : (s.startPhase p).sent = s.sent := rfl
@[simp] theorem State.startPhase_draws (p : Phase) : (s.startPhase p).draws = s.draws := rfl

/-! `State.send` -/

@[simp] theorem State.send_params (b : Byte) : (s.send b).params = s.params := rfl
@[simp] theorem State.send_dec (b : Byte) : (s.send b).dec = s.dec := rfl
@[simp] theorem State.send_rxBuf (b : Byte) : (s.send b).rxBuf = s.rxBuf := rfl
@[simp] theorem State.send_seq (b : Byte) : (s.send b).seq = s.seq := rfl
@[simp] theorem State.send_txBuf (b : Byte) : (s.send b).txBuf = s.txBuf := rfl
@[simp] theorem State.send_reg (b : Byte) : (s.send b).reg = s.reg := rfl
@[simp] theorem State.send_env (b : Byte) : (s.send b).env = s.env := rfl
@[simp] theorem State.send_evt (b : Byte) : (s.send b).evt = s.evt := rfl
@[simp] theorem State.send_bRdata (b : Byte) : (s.send b).bRdata = s.bRdata := rfl
@[simp] theorem State.send_events (b : Byte) : (s.send b).events = s.events := rfl
@[simp] theorem State.send_sent (b : Byte) : (s.send b).sent = s.sent ++ [b] := rfl
@[simp] theorem State.send_draws (b : Byte) : (s.send b).draws = s.draws := rfl

/-! `State.useDraw` -/

@[simp] theorem State.useDraw_params : (s.useDraw).params = s.params := rfl
@[simp] theorem State.useDraw_dec : (s.useDraw).dec = s.dec := rfl
@[simp] theorem State.useDraw_rxBuf : (s.useDraw).rxBuf = s.rxBuf := rfl
@[simp] theorem State.useDraw_seq : (s.useDraw).seq = s.seq := rfl
@[simp] theorem State.useDraw_txBuf : (s.useDraw).txBuf = s.txBuf := rfl
@[simp] theorem State.useDraw_reg : (s.useDraw).reg = s.reg := rfl
@[simp] theorem State.useDraw_env : (s.useDraw).env = { s.env with sensorFeed := s.env.sensorFeed.tail } := rfl
@[simp] theorem State.useDraw_evt : (s.useDraw).evt = s.evt := rfl
@[simp] theorem State.useDraw_bRdata : (s.useDraw).bRdata = s.bRdata := rfl
@[simp] theorem State.useDraw_events : (s.useDraw).events = s.events := rfl
@[simp] theorem State.useDraw_sent : (s.useDraw).sent = s.sent := rfl
@[simp] theorem State.useDraw_draws : (s.useDraw).draws = s.draws + 1 := rfl

/-! `State.offerByte` -/

@[simp] theorem State.offerByte_params (b : Byte) : (s.offerByte b).params = s.params := rfl
@[simp] theorem State.offerByte_dec (b : Byte) : (s.offerByte b).dec = s.dec := rfl
@[simp] theorem State.offerByte_rxBuf (b : Byte) : (s.offerByte b).rxBuf = s.rxBuf := rfl
@[simp] theorem State.offerByte_seq (b : Byte) : (s.offerByte b).seq = s.seq := rfl
@[simp] theorem State.offerByte_txBuf (b : Byte) : (s.offerByte b).txBuf = s.txBuf := rfl
@[simp] theorem State.offerByte_reg (b : Byte) : (s.offerByte b).reg = s.reg := rfl
@[simp] theorem State.offerByte_env (b : Byte) :
    (s.offerByte b).env = { s.env with rxLine := s.env.rxLine ++ [b] } := rfl
@[simp] theorem State.offerByte_evt (b : Byte) : (s.offerByte b).evt = s.evt := rfl
@[simp] theorem State.offerByte_bRdata (b : Byte) : (s.offerByte b).bRdata = s.bRdata := rfl
@[simp] theorem State.offerByte_events (b : Byte) : (s.offerByte b).events = s.events := rfl
@[simp] theorem State.offerByte_sent (b : Byte) : (s.offerByte b).sent = s.sent := rfl
@[simp] theorem State.offerByte_draws (b : Byte) : (s.offerByte b).draws = s.draws := rfl

/-! `State.popRx` -/

@[simp] theorem State.popRx_params : (s.popRx).params = s.params := rfl
@[simp] theorem State.popRx_dec : (s.popRx).dec = s.dec := rfl
@[simp] theorem State.popRx_rxBuf : (s.popRx).rxBuf = s.rxBuf := rfl
@[simp] theorem State.popRx_seq : (s.popRx).seq = s.seq := rfl
@[simp] theorem State.popRx_txBuf : (s.popRx).txBuf = s.txBuf := rfl
@[simp] theorem State.popRx_reg : (s.popRx).reg = s.reg := rfl
@[simp] theorem State.popRx_env : (s.popRx).env = { s.env with rxLine := s.env.rxLine.tail } := rfl
@[simp] theorem State.popRx_evt : (s.popRx).evt = s.evt := rfl
@[simp] theorem State.popRx_bRdata : (s.popRx).bRdata = s.bRdata := rfl
@[simp] theorem State.popRx_events : (s.popRx).events = s.events := rfl
@[simp] theorem State.popRx_sent : (s.popRx).sent = s.sent := rfl
@[simp] theorem State.popRx_draws : (s.popRx).draws = s.draws := rfl

/-! `State.driveTxReady` -/

@[simp] theorem State.driveTxReady_params (v : Bool) : (s.driveTxReady v).params = s.params := rfl
@[simp] theorem State.driveTxReady_dec (v : Bool) : (s.driveTxReady v).dec = s.dec := rfl
@[simp] theorem State.driveTxReady_rxBuf (v : Bool) : (s.driveTxReady v).rxBuf = s.rxBuf := rfl
@[simp] theorem State.driveTxReady_seq (v : Bool) : (s.driveTxReady v).seq = s.seq := rfl
@[simp] theorem State.driveTxReady_txBuf (v : Bool) : (s.driveTxReady v).txBuf = s.txBuf := rfl
@[simp] theorem State.driveTxReady_reg (v : Bool) : (s.driveTxReady v).reg = s.reg := rfl
@[simp] theorem State.driveTxReady_env (v : Bool) : (s.driveTxReady v).env = { s.env with txReady := v } := rfl
@[simp] theorem State.driveTxReady_evt (v : Bool) : (s.driveTxReady v).evt = s.evt := rfl
@[simp] theorem State.driveTxReady_bRdata (v : Bool) : (s.driveTxReady v).bRdata = s.bRdata := rfl
@[simp] theorem State.driveTxReady_events (v : Bool) : (s.driveTxReady v).events = s.events := rfl
@[simp] theorem State.driveTxReady_sent (v : Bool) : (s.driveTxReady v).sent = s.sent := rfl
@[simp] theorem State.driveTxReady_draws (v : Bool) : (s.driveTxReady v).draws = s.draws := rfl

/-! `State.driveAdminEnable` -/

@[simp] theorem State.driveAdminEnable_params (v : Bool) : (s.driveAdminEnable v).params = s.params := rfl
@[simp] theorem State.driveAdminEnable_dec (v : Bool) : (s.driveAdminEnable v).dec = s.dec := rfl
@[simp] theorem State.driveAdminEnable_rxBuf (v : Bool) : (s.driveAdminEnable v).rxBuf = s.rxBuf := rfl
@[simp] theorem State.driveAdminEnable_seq (v : Bool) : (s.driveAdminEnable v).seq = s.seq := rfl
@[simp] theorem State.driveAdminEnable_txBuf (v : Bool) : (s.driveAdminEnable v).txBuf = s.txBuf := rfl
@[simp] theorem State.driveAdminEnable_reg (v : Bool) : (s.driveAdminEnable v).reg = s.reg := rfl
@[simp] theorem State.driveAdminEnable_env (v : Bool) :
    (s.driveAdminEnable v).env = { s.env with adminEnable := v } := rfl
@[simp] theorem State.driveAdminEnable_evt (v : Bool) : (s.driveAdminEnable v).evt = s.evt := rfl
@[simp] theorem State.driveAdminEnable_bRdata (v : Bool) : (s.driveAdminEnable v).bRdata = s.bRdata := rfl
@[simp] theorem State.driveAdminEnable_events (v : Bool) : (s.driveAdminEnable v).events = s.events := rfl
@[simp] theorem State.driveAdminEnable_sent (v : Bool) : (s.driveAdminEnable v).sent = s.sent := rfl
@[simp] theorem State.driveAdminEnable_draws (v : Bool) : (s.driveAdminEnable v).draws = s.draws := rfl

/-! `State.fixSensor` -/

@[simp] theorem State.fixSensor_params (w : Word) : (s.fixSensor w).params = s.params := rfl
@[simp] theorem State.fixSensor_dec (w : Word) : (s.fixSensor w).dec = s.dec := rfl
@[simp] theorem State.fixSensor_rxBuf (w : Word) : (s.fixSensor w).rxBuf = s.rxBuf := rfl
@[simp] theorem State.fixSensor_seq (w : Word) : (s.fixSensor w).seq = s.seq := rfl
@[simp] theorem State.fixSensor_txBuf (w : Word) : (s.fixSensor w).txBuf = s.txBuf := rfl
@[simp] theorem State.fixSensor_reg (w : Word) : (s.fixSensor w).reg = s.reg := rfl
@[simp] theorem State.fixSensor_env (w : Word) :
    (s.fixSensor w).env = { s.env with sensorFeed := s.env.sensorFeed ++ [w] } := rfl
@[simp] theorem State.fixSensor_evt (w : Word) : (s.fixSensor w).evt = s.evt := rfl
@[simp] theorem State.fixSensor_bRdata (w : Word) : (s.fixSensor w).bRdata = s.bRdata := rfl
@[simp] theorem State.fixSensor_events (w : Word) : (s.fixSensor w).events = s.events := rfl
@[simp] theorem State.fixSensor_sent (w : Word) : (s.fixSensor w).sent = s.sent := rfl
@[simp] theorem State.fixSensor_draws (w : Word) : (s.fixSensor w).draws = s.draws := rfl

/-! `State.beginStep` -/

@[simp] theorem State.beginStep_params : (s.beginStep).params = s.params := rfl
@[simp] theorem State.beginStep_dec : (s.beginStep).dec = s.dec := rfl
@[simp] theorem State.beginStep_rxBuf : (s.beginStep).rxBuf = s.rxBuf := rfl
@[simp] theorem State.beginStep_seq : (s.beginStep).seq = s.seq := rfl
@[simp] theorem State.beginStep_txBuf : (s.beginStep).txBuf = s.txBuf := rfl
@[simp] theorem State.beginStep_reg : (s.beginStep).reg = s.reg := rfl
@[simp] theorem State.beginStep_env : (s.beginStep).env = s.env.useTurn := rfl
@[simp] theorem State.beginStep_evt : (s.beginStep).evt = none := rfl
@[simp] theorem State.beginStep_bRdata : (s.beginStep).bRdata = none := rfl
@[simp] theorem State.beginStep_events : (s.beginStep).events = s.events := rfl
@[simp] theorem State.beginStep_sent : (s.beginStep).sent = s.sent := rfl
@[simp] theorem State.beginStep_draws : (s.beginStep).draws = s.draws := rfl

/-! `State.takeId` -/

@[simp] theorem State.takeId_params (b : Byte) : (s.takeId b).params = s.params := rfl
@[simp] theorem State.takeId_dec (b : Byte) : (s.takeId b).dec = { s.dec with idReg := b } := rfl
@[simp] theorem State.takeId_rxBuf (b : Byte) : (s.takeId b).rxBuf = s.rxBuf.write 2 b := rfl
@[simp] theorem State.takeId_seq (b : Byte) : (s.takeId b).seq = s.seq := rfl
@[simp] theorem State.takeId_txBuf (b : Byte) : (s.takeId b).txBuf = s.txBuf := rfl
@[simp] theorem State.takeId_reg (b : Byte) : (s.takeId b).reg = s.reg := rfl
@[simp] theorem State.takeId_env (b : Byte) : (s.takeId b).env = s.env := rfl
@[simp] theorem State.takeId_evt (b : Byte) : (s.takeId b).evt = s.evt := rfl
@[simp] theorem State.takeId_bRdata (b : Byte) : (s.takeId b).bRdata = s.bRdata := rfl
@[simp] theorem State.takeId_events (b : Byte) : (s.takeId b).events = s.events := rfl
@[simp] theorem State.takeId_sent (b : Byte) : (s.takeId b).sent = s.sent := rfl
@[simp] theorem State.takeId_draws (b : Byte) : (s.takeId b).draws = s.draws := rfl

/-! `State.takeLength` -/

@[simp] theorem State.takeLength_params (b : Byte) : (s.takeLength b).params = s.params := rfl
@[simp] theorem State.takeLength_dec (b : Byte) :
    (s.takeLength b).dec = { s.dec with lenReg := b, acc := s.dec.acc + b, count := 0, state := .accumulatePayload } := rfl
@[simp] theorem State.takeLength_rxBuf (b : Byte) : (s.takeLength b).rxBuf = s.rxBuf.write 3 b := rfl
@[simp] theorem State.takeLength_seq (b : Byte) : (s.takeLength b).seq = s.seq := rfl
@[simp] theorem State.takeLength_txBuf (b : Byte) : (s.takeLength b).txBuf = s.txBuf := rfl
@[simp] theorem State.takeLength_reg (b : Byte) : (s.takeLength b).reg = s.reg := rfl
@[simp] theorem State.takeLength_env (b : Byte) : (s.takeLength b).env = s.env := rfl
@[simp] theorem State.takeLength_evt (b : Byte) : (s.takeLength b).evt = s.evt := rfl
@[simp] theorem State.takeLength_bRdata (b : Byte) : (s.takeLength b).bRdata = s.bRdata := rfl
@[simp] theorem State.takeLength_events (b : Byte) : (s.takeLength b).events = s.events := rfl
@[simp] theorem State.takeLength_sent (b : Byte) : (s.takeLength b).sent = s.sent := rfl
@[simp] theorem State.takeLength_draws (b : Byte) : (s.takeLength b).draws = s.draws := rfl

/-! `State.takeBodyByte` -/

@[simp] theorem State.takeBodyByte_params (b : Byte) : (s.takeBodyByte b).params = s.params := rfl
@[simp] theorem State.takeBodyByte_dec (b : Byte) :
    (s.takeBodyByte b).dec = { s.dec with acc := if s.dec.count.toNat + 1 < s.dec.lenReg.toNat then s.dec.acc + b else s.dec.acc, count := s.dec.count + 1 } := rfl
@[simp] theorem State.takeBodyByte_rxBuf (b : Byte) :
    (s.takeBodyByte b).rxBuf = s.rxBuf.write (4 + s.dec.count.toNat) b := rfl
@[simp] theorem State.takeBodyByte_seq (b : Byte) : (s.takeBodyByte b).seq = s.seq := rfl
@[simp] theorem State.takeBodyByte_txBuf (b : Byte) : (s.takeBodyByte b).txBuf = s.txBuf := rfl
@[simp] theorem State.takeBodyByte_reg (b : Byte) : (s.takeBodyByte b).reg = s.reg := rfl
@[simp] theorem State.takeBodyByte_env (b : Byte) : (s.takeBodyByte b).env = s.env := rfl
@[simp] theorem State.takeBodyByte_evt (b : Byte) : (s.takeBodyByte b).evt = s.evt := rfl
@[simp] theorem State.takeBodyByte_bRdata (b : Byte) : (s.takeBodyByte b).bRdata = s.bRdata := rfl
@[simp] theorem State.takeBodyByte_events (b : Byte) : (s.takeBodyByte b).events = s.events := rfl
@[simp] theorem State.takeBodyByte_sent (b : Byte) : (s.takeBodyByte b).sent = s.sent := rfl
@[simp] theorem State.takeBodyByte_draws (b : Byte) : (s.takeBodyByte b).draws = s.draws := rfl

/-! `State.afterRst` -/

@[simp] theorem State.afterRst_params : (s.afterRst).params = s.params := rfl
@[simp] theorem State.afterRst_dec : (s.afterRst).dec = Decoder.reset := rfl
@[simp] theorem State.afterRst_rxBuf : (s.afterRst).rxBuf = [] := rfl
@[simp] theorem State.afterRst_seq : (s.afterRst).seq = Sequencer.reset := rfl
@[simp] theorem State.afterRst_txBuf : (s.afterRst).txBuf = [] := rfl
@[simp] theorem State.afterRst_reg : (s.afterRst).reg = tabulate12 (Servo.reset s.params s.draws) := rfl
@[simp] theorem State.afterRst_env : (s.afterRst).env = s.env := rfl
@[simp] theorem State.afterRst_evt : (s.afterRst).evt = none := rfl
@[simp] theorem State.afterRst_bRdata : (s.afterRst).bRdata = none := rfl
@[simp] theorem State.afterRst_events : (s.afterRst).events = s.events := rfl
@[simp] theorem State.afterRst_sent : (s.afterRst).sent = s.sent := rfl
@[simp] theorem State.afterRst_draws : (s.afterRst).draws = s.draws + 36 := rfl

/-! `Env.useTurn` -/

@[simp] theorem Env.useTurn_rxLine (e : Env) : e.useTurn.rxLine = e.rxLine := rfl
@[simp] theorem Env.useTurn_txReady (e : Env) : e.useTurn.txReady = e.txReady := rfl
@[simp] theorem Env.useTurn_adminEnable (e : Env) : e.useTurn.adminEnable = e.adminEnable := rfl
@[simp] theorem Env.useTurn_sensorFeed (e : Env) : e.useTurn.sensorFeed = e.sensorFeed := rfl
@[simp] theorem Env.useTurn_script (e : Env) : e.useTurn.script = e.script.tail := rfl

end Sys2Proof.Machine
end

