-- ==== Sys2Proof/Laws/Ops.lean ====
section
/-! SUPPORT. Port B and the register map: which record and field an address names, and what an access does (20_memory.md
R64, R65). -/

namespace Sys2Proof.Machine

/-- Record `k` takes addresses `8k` to `8k + 7`, field `f` at `8k + f` (R64). -/
theorem busIndex_addr (k : Fin 12) {f : Nat} (h : f < 8) : busIndex (BitVec.ofNat 7 (8 * k.val + f)) = k.val := by
  have : ∀ (k : Fin 12) (f : Fin 8), busIndex (BitVec.ofNat 7 (8 * k.val + f.val)) = k.val := by decide
  exact this k ⟨f, h⟩

theorem busField_addr (k : Fin 12) {f : Nat} (h : f < 8) : busField (BitVec.ofNat 7 (8 * k.val + f)) = f := by
  have : ∀ (k : Fin 12) (f : Fin 8), busField (BitVec.ofNat 7 (8 * k.val + f.val)) = f.val := by decide
  exact this k ⟨f, h⟩

/-- An address is its index and its field. -/
theorem addr_of_index_field (addr : BitVec 7) : addr = BitVec.ofNat 7 (8 * busIndex addr + busField addr) := by
  have : ∀ addr : BitVec 7, addr = BitVec.ofNat 7 (8 * busIndex addr + busField addr) := by decide
  exact this addr

/-- Addresses `0x60` to `0x7F` name no record (R65). -/
theorem busIndex_hole {addr : BitVec 7} (h : 0x60 ≤ addr) : ¬ busIndex addr < 12 := by
  have : ∀ addr : BitVec 7, 0x60 ≤ addr → ¬ busIndex addr < 12 := by decide
  exact this addr h

theorem busRead_record {s : State} {addr : BitVec 7} (k : Fin 12) (h : busIndex addr = k.val) :
    s.busRead addr = readField s.reg[k] k (busField addr) := by
  obtain ⟨k, hk⟩ := k
  simp only at h
  subst h
  unfold State.busRead
  rw [dif_pos hk]
  rfl

theorem busRead_hole {s : State} {addr : BitVec 7} (h : ¬ busIndex addr < 12) : s.busRead addr = 0 := by
  unfold State.busRead; rw [dif_neg h]

theorem busWrite_record {s : State} {addr : BitVec 7} (v : Half) (k : Fin 12) (h : busIndex addr = k.val) :
    s.busWrite addr v = s.setServo k (writeField s.reg[k] v (busField addr)) := by
  obtain ⟨k, hk⟩ := k
  simp only at h
  subst h
  unfold State.busWrite
  rw [dif_pos hk]
  rfl

theorem busWrite_hole {s : State} {addr : BitVec 7} (v : Half) (h : ¬ busIndex addr < 12) : s.busWrite addr v = s := by
  unfold State.busWrite; rw [dif_neg h]

/-- Everything a port-B write can do: nothing, or a new record with the old `torque_switch` and `goal_position`. -/
theorem busWrite_cases (s : State) (addr : BitVec 7) (v : Half) :
    s.busWrite addr v = s ∨
      ∃ k : Fin 12, busIndex addr = k.val ∧ s.busWrite addr v = s.setServo k (writeField s.reg[k] v (busField addr)) := by
  by_cases h : busIndex addr < 12
  · exact .inr ⟨⟨busIndex addr, h⟩, rfl, busWrite_record v _ rfl⟩
  · exact .inl (busWrite_hole v h)

/-- Everything a port-B access can do. -/
theorem busAccess_cases (s : State) (r : BusRequest) :
    (r.we = false ∧ s.busAccess r = { s with bRdata := some (s.busRead r.addr) }) ∨
      (r.we = true ∧ s.busAccess r = s.busWrite r.addr r.wdata) := by
  unfold State.busAccess
  cases r.we <;> simp

@[simp] theorem writeField_torqueSwitch (r : Servo) (v : Half) (f : Nat) :
    (writeField r v f).torqueSwitch = r.torqueSwitch := by unfold writeField; split <;> rfl

@[simp] theorem writeField_goalPosition (r : Servo) (v : Half) (f : Nat) :
    (writeField r v f).goalPosition = r.goalPosition := by unfold writeField; split <;> rfl

/-- A record after `setServo`. -/
theorem setServo_getElem (s : State) (k j : Fin 12) (v : Servo) :
    (s.setServo k v).reg[j] = if k = j then v else s.reg[j] := by
  simp only [State.setServo_reg, Fin.getElem_fin, Vector.getElem_set, Fin.ext_iff]

/-- No port-B write changes a goal (R65). -/
theorem busWrite_goalPosition (s : State) (addr : BitVec 7) (v : Half) (k : Fin 12) :
    (s.busWrite addr v).reg[k].goalPosition = s.reg[k].goalPosition := by
  rcases busWrite_cases s addr v with e | ⟨j, _, e⟩
  · rw [e]
  · rw [e, setServo_getElem]
    split
    · rename_i h; subst h; simp
    · rfl

end Sys2Proof.Machine
end

