-- ==== Sys2Proof/Laws/PerInstr.lean ====
section
/-! SUPPORT. Statements made per instruction, one lemma per constructor of Instr. -/

namespace Sys2Proof.Laws

/-- The frame of any payload that fits a length byte: `L + 4` bytes, header first, and the check of 40_checksum.md R101
passes on it. -/
theorem frame_shape (instr : Byte) (payload : List Byte) :
    (frame instr payload).length = payload.length + 6 ∧
      (frame instr payload).take 3 = [Config.sync, Config.sync, Config.deviceId] ∧
      (frame instr payload)[4]? = some instr ∧ verify ((frame instr payload).drop 2) = true := by
  refine ⟨by simp [frame], rfl, rfl, ?_⟩
  exact (verify_snoc (covered Config.deviceId _ instr payload) _).trans (decide_eq_true rfl)

/-- The shape of an instruction's frame (30_encoding.md R81, R83, R88). -/
def EncodeShape.Statement (i : Instr) : Prop :=
  (encode i).length = i.payload.length + 6 ∧ (encode i).take 3 = [Config.sync, Config.sync, Config.deviceId] ∧
    (encode i)[4]? = some i.byte ∧ verify ((encode i).drop 2) = true

theorem EncodeShape.instControl (op : ControlOperand) : EncodeShape.Statement (.instControl op) := frame_shape _ _

theorem EncodeShape.instOther (instr : Byte) (payload : List Byte) : EncodeShape.Statement (.instOther instr payload) :=
  frame_shape _ _

end Sys2Proof.Laws
end

