-- ==== Sys2Proof/Laws/Step.lean ====
section
/-! SUPPORT. What a step can do: one equation per kind of turn and per phase, one inversion lemma per shared operation, and
runs of the core alone. -/

namespace Sys2Proof.Machine

/-! ### Turns -/

theorem step_of_turn {s : State} {t : Turn} (h : s.nextTurn = t) : step s = takeTurn t s.beginStep := by
  unfold step; rw [h]

theorem step_core {s : State} (h : s.nextTurn = .core) : step s = coreStep s.beginStep := step_of_turn h

theorem coreIn.step {s : State} {p : Phase} (h : s.coreIn p) : step s = coreStep s.beginStep := step_core h.1

/-- Using up a turn of a silent environment leaves it as it was. -/
theorem Env.useTurn_alone {e : Env} (h1 : e.script = []) (h2 : e.later = .quiet) : e.useTurn = e := by
  unfold Env.useTurn; cases e; simp_all [Schedule.rest]

theorem alone.nextTurn {s : State} (h : s.alone) : s.nextTurn = .core := by
  unfold State.nextTurn Env.nextTurn; rw [h.1, h.2]; rfl

theorem beginStep_alone {s : State} (h : s.alone) : s.beginStep.alone := by
  unfold State.alone; rw [State.beginStep_env, Env.useTurn_alone h.1 h.2]; exact h

/-- Two environments with the same turns to come. -/
theorem Env.turnAt_congr {d e : Env} (h1 : d.script = e.script) (h2 : d.later = e.later) (n : Nat) :
    Env.turnAt n d = Env.turnAt n e := by
  induction n generalizing d e with
  | zero => unfold Env.turnAt Env.nextTurn; rw [h1, h2]
  | succ n ih => exact ih (by simp [h1]) (by simp [Env.useTurn, h1, h2])

theorem Env.offeredIn_congr {d e : Env} (h1 : d.script = e.script) (h2 : d.later = e.later) (n : Nat) :
    Env.offeredIn n d = Env.offeredIn n e := by
  induction n generalizing d e with
  | zero => rfl
  | succ n ih =>
    unfold Env.offeredIn
    rw [show d.nextTurn = e.nextTurn from Env.turnAt_congr h1 h2 0,
      ih (d := d.useTurn) (e := e.useTurn) (by simp [h1]) (by simp [Env.useTurn, h1, h2])]

theorem coreStep_idle {s : State} (h : s.seq.phase = .idle) : coreStep s = idleStep s := by unfold coreStep; rw [h]

theorem coreStep_validate {s : State} (h : s.seq.phase = .validate) : coreStep s = validateStep s := by
  unfold coreStep; rw [h]

theorem coreStep_write {s : State} (h : s.seq.phase = .write) : coreStep s = writeStep s := by unfold coreStep; rw [h]

theorem coreStep_gather {s : State} (h : s.seq.phase = .gather) : coreStep s = gatherStep s := by
  unfold coreStep; rw [h]

theorem coreStep_seal {s : State} (h : s.seq.phase = .seal) : coreStep s = .next (sealStep s) := by
  unfold coreStep; rw [h]

theorem coreStep_emit {s : State} (h : s.seq.phase = .emit) : coreStep s = emitStep s := by unfold coreStep; rw [h]

theorem coreStep_clear {s : State} (h : s.seq.phase = .clear) : coreStep s = .next (clearStep s) := by
  unfold coreStep; rw [h]

/-! ### Flags and idle steps -/

theorem isDone_iff (s : State) : s.isDone = true ↔ s.dec.state = .done := decide_eq_true_iff

theorem rxReady_iff (s : State) : s.rxReady = true ↔ s.seq.phase = .idle := decide_eq_true_iff

/-- With no byte offered the idle core does nothing (R133). -/
theorem idleStep_nil {s : State} (h : s.env.rxLine = []) : idleStep s = .next s := by unfold idleStep; rw [h]

/-- With a byte offered the idle core takes a byte step (R121). -/
theorem idleStep_cons {s : State} {b : Byte} {rest : List Byte} (h : s.env.rxLine = b :: rest)
    (hd : s.dec.state ≠ .done) : idleStep s = byteStep b s.popRx := by
  unfold idleStep
  rw [h]
  exact if_neg fun hc => hd ((isDone_iff s).mp hc)

/-- A step that takes a byte is that byte's step on the state with the turn and the byte used up. -/
theorem offers.step {s : State} {b : Byte} {rest : List Byte} (h : s.offers b rest) (hd : s.dec.state ≠ .done) :
    step s = byteStep b (s.tookByte rest) := by
  obtain ⟨ht, hp, hl⟩ := h
  rw [step_core ht, coreStep_idle (by simpa using hp), idleStep_cons (by simpa using hl) (by simpa using hd)]
  have e : s.beginStep.env.rxLine.tail = rest := by rw [State.beginStep_env, Env.useTurn_rxLine, hl]; rfl
  unfold State.popRx State.tookByte
  rw [e]

/-- Once alone, the core keeps the next turn and takes the byte at `rx_data`. -/
theorem offers_of_alone {s : State} {b : Byte} {rest : List Byte} (ha : s.alone) (hp : s.seq.phase = .idle)
    (hl : s.env.rxLine = b :: rest) : s.offers b rest := ⟨alone.nextTurn ha, hp, hl⟩

theorem tookByte_alone {s : State} (h : s.alone) (rest : List Byte) : (s.tookByte rest).alone := beginStep_alone h

/-- A step of the core alone. -/
theorem step_alone {s : State} (h : s.alone) : step s = coreStep s.beginStep := step_core (alone.nextTurn h)

theorem timeoutIfIdle_eq (s : State) : timeoutIfIdle s = if s.seq.phase = .idle then timeoutEffect s else s := by
  unfold timeoutIfIdle
  by_cases h : s.seq.phase = .idle
  · rw [if_pos h, if_pos ((rxReady_iff s).mpr h)]
  · rw [if_neg h, if_neg fun hc => h ((rxReady_iff s).mp hc)]

/-- A body byte that is not the last one is summed (R128). -/
theorem State.takeBodyByte_more {s : State} (b : Byte) (h : s.dec.count.toNat + 1 < s.dec.lenReg.toNat) :
    s.takeBodyByte b =
      { s with
        dec := { s.dec with acc := s.dec.acc + b, count := s.dec.count + 1 }
        rxBuf := s.rxBuf.write (4 + s.dec.count.toNat) b } := by
  unfold State.takeBodyByte; rw [if_pos h]

/-- The last body byte, the checksum, is not summed (R128). -/
theorem State.takeBodyByte_last {s : State} (b : Byte) (h : s.dec.lenReg.toNat ≤ s.dec.count.toNat + 1) :
    s.takeBodyByte b =
      { s with
        dec := { s.dec with count := s.dec.count + 1 }
        rxBuf := s.rxBuf.write (4 + s.dec.count.toNat) b } := by
  unfold State.takeBodyByte; rw [if_neg (by omega)]

/-! ### Phase steps, by the conditions that select their branch -/

theorem validateStep_mismatch {s : State} (hc : s.dec.lenReg.toNat + 4 ≤ s.params.cap)
    (hm : s.rxBuf.read (s.dec.lenReg.toNat + 3) ≠ ~~~ s.dec.acc) :
    validateStep s = .next (s.failFrame .checksumMismatch (s.rxBuf.read (s.dec.lenReg.toNat + 3))) := by
  unfold validateStep
  rw [if_neg (by omega), if_pos hm]

theorem validateStep_match {s : State} (hc : s.dec.lenReg.toNat + 4 ≤ s.params.cap)
    (hm : s.rxBuf.read (s.dec.lenReg.toNat + 3) = ~~~ s.dec.acc) :
    validateStep s = exec (instrOfBody (s.rxBuf.read 4) (s.rxBuf.slice 5 (s.dec.lenReg.toNat - 2))) s := by
  unfold validateStep
  rw [if_neg (by omega), if_neg (by simpa using hm)]

theorem writeStep_at {s : State} (k : Fin 12) (h : s.seq.k.toNat = k.val) :
    writeStep s = .next (if k.val < 11 then (s.writeGoal k s.seq.goalStage[k]).nextK
      else (s.writeGoal k s.seq.goalStage[k]).startPhase .gather) := by
  obtain ⟨k, hk⟩ := k
  obtain rfl : k = s.seq.k.toNat := h.symm
  unfold writeStep
  rw [dif_pos (by omega)]
  rfl

theorem gatherField_position {s : State} (j : Fin 12) (h : s.seq.k.toNat = j.val) :
    gatherField s = s.storeTx (5 + 2 * j.val) (halfBytes s.reg[j].presentPosition) := by
  obtain ⟨j, hj⟩ := j
  obtain rfl : j = s.seq.k.toNat := h.symm
  unfold gatherField
  rw [dif_pos (by omega)]
  rfl

theorem gatherField_load {s : State} (j : Fin 12) (h : s.seq.k.toNat = 12 + j.val) :
    gatherField s = s.storeTx (29 + 2 * j.val) (halfBytes s.reg[j].presentLoad) := by
  obtain ⟨j, hj⟩ := j
  simp only at h
  obtain rfl : j = s.seq.k.toNat - 12 := by omega
  unfold gatherField
  rw [dif_neg (by omega), dif_pos (by omega)]
  rfl

theorem gatherField_sensor {s : State} (m : Nat) (h : s.seq.k.toNat = 24 + m) :
    gatherField s = (s.storeTx (53 + 4 * m) (wordBytes (s.sensorValue (sensorOf m)))).useDraw := by
  have hm : m = s.seq.k.toNat - 24 := by omega
  subst hm
  unfold gatherField
  rw [dif_neg (by omega), dif_neg (by omega)]

theorem gatherStep_more {s : State} (h : s.seq.k.toNat < 28) : gatherStep s = .next (gatherField s).nextK := by
  unfold gatherStep; rw [if_pos (by omega), if_pos h]

theorem gatherStep_last {s : State} (h : s.seq.k.toNat = 28) :
    gatherStep s = .next ((gatherField s).setPhase .seal) := by
  unfold gatherStep; rw [if_pos (by omega), if_neg (by omega)]

theorem emitStep_more {s : State} (h : s.seq.k.toNat < 73) (hr : s.env.txReady = true) :
    emitStep s = .next (s.send s.txData).nextK := by
  unfold emitStep; rw [if_pos (by omega), if_pos hr, if_pos h]

theorem emitStep_last {s : State} (h : s.seq.k.toNat = 73) (hr : s.env.txReady = true) :
    emitStep s = .next ((s.send s.txData).setPhase .clear) := by
  unfold emitStep; rw [if_pos (by omega), if_pos hr, if_neg (by omega)]

theorem emitStep_wait {s : State} (h : s.seq.k.toNat < 74) (hr : s.env.txReady = false) : emitStep s = .next s := by
  unfold emitStep; rw [if_pos h, if_neg (by simp [hr])]

theorem clearStep_some {s : State} {c : OutcomeCode} (h : s.seq.outcome = some c) :
    clearStep s =
      { s with
        dec := Decoder.reset
        evt := some ⟨c, s.seq.arg⟩
        events := s.events ++ [⟨c, s.seq.arg⟩]
        seq := { s.seq with phase := .idle, k := 0, outcome := none, arg := 0 } } := by
  unfold clearStep State.emitRegister
  simp only [State.resync_seq, h]
  rfl

theorem clearStep_none {s : State} (h : s.seq.outcome = none) :
    clearStep s =
      { s with
        dec := Decoder.reset
        seq := { s.seq with phase := .idle, k := 0, outcome := none, arg := 0 } } := by
  unfold clearStep State.emitRegister
  simp only [State.resync_seq, h]
  rfl

/-! ### Inversion: everything a shared operation can do when it answers a next state -/

theorem byteAwaitSync1_cases (b : Byte) (s : State) :
    (b = Config.sync ∧ byteAwaitSync1 b s = (s.writeRx 0 Config.sync).setDecState .awaitSync2) ∨
      (b ≠ Config.sync ∧ byteAwaitSync1 b s = s) := by
  unfold byteAwaitSync1; split <;> simp_all

theorem byteAwaitSync2_cases (b : Byte) (s : State) :
    (b = Config.sync ∧ byteAwaitSync2 b s = (s.writeRx 1 Config.sync).setDecState .awaitId) ∨
      (b ≠ Config.sync ∧ byteAwaitSync2 b s = s.resync) := by
  unfold byteAwaitSync2 byteAwaitSync1; split <;> simp_all

theorem byteAwaitId_cases (b : Byte) (s : State) :
    (b ≠ Config.deviceId ∧ byteAwaitId b s = (s.takeId b).rejectFrame .headerRejectedId b) ∨
      (b = Config.deviceId ∧
        byteAwaitId b s = { s.takeId b with dec := { s.dec with idReg := b, acc := b, state := .awaitLength } }) := by
  unfold byteAwaitId
  by_cases h : b = Config.deviceId
  · exact .inr ⟨h, if_neg (not_not.mpr h)⟩
  · exact .inl ⟨h, if_pos h⟩

theorem byteAwaitLength_cases (b : Byte) (s : State) :
    (b.toNat < 2 ∧ byteAwaitLength b s = s.rejectFrame .headerRejectedShort b) ∨
      (s.params.cap < b.toNat + 4 ∧ byteAwaitLength b s = s.rejectFrame .headerRejectedLong b) ∨
      (2 ≤ b.toNat ∧ b.toNat + 4 ≤ s.params.cap ∧ byteAwaitLength b s = s.takeLength b) := by
  unfold byteAwaitLength
  split
  · exact .inl ⟨‹_›, rfl⟩
  · split
    · exact .inr (.inl ⟨‹_›, rfl⟩)
    · exact .inr (.inr ⟨by omega, by omega, rfl⟩)

theorem byteAccumulate_cases {b : Byte} {s t : State} (h : byteAccumulate b s = .next t) :
    4 + s.dec.count.toNat < s.params.cap ∧
      ((s.dec.count + 1 = s.dec.lenReg ∧ t = ((s.takeBodyByte b).setDecState .done).setPhase .validate) ∨
        (s.dec.count + 1 ≠ s.dec.lenReg ∧ t = s.takeBodyByte b)) := by
  unfold byteAccumulate at h
  split at h
  · cases h
  · refine ⟨by omega, ?_⟩
    cases h
    unfold State.finishFrame
    by_cases hc : s.dec.count + 1 = s.dec.lenReg
    · exact .inl ⟨hc, if_pos hc⟩
    · exact .inr ⟨hc, if_neg hc⟩

/-- Everything a byte step can do. -/
theorem byteStep_cases {b : Byte} {s t : State} (h : byteStep b s = .next t) :
    (s.dec.state = .awaitSync1 ∧ t = byteAwaitSync1 b s) ∨
    (s.dec.state = .awaitSync2 ∧ t = byteAwaitSync2 b s) ∨
    (s.dec.state = .awaitId ∧ t = byteAwaitId b s) ∨
    (s.dec.state = .awaitLength ∧ t = byteAwaitLength b s) ∨
    (s.dec.state = .accumulatePayload ∧ byteAccumulate b s = .next t) ∨
    (s.dec.state = .done ∧ t = s) := by
  unfold byteStep at h
  split at h <;> first | (cases h; simp_all) | simp_all

/-- Everything the idle core can do. -/
theorem idleStep_cases {s t : State} (h : idleStep s = .next t) :
    t = s ∨ ∃ b rest, s.env.rxLine = b :: rest ∧ s.dec.state ≠ .done ∧ byteStep b s.popRx = .next t := by
  unfold idleStep at h
  split at h
  · cases h; exact .inl rfl
  · rename_i b rest hl
    split at h
    · cases h; exact .inl rfl
    · rename_i hd
      exact .inr ⟨b, rest, hl, by simpa [State.isDone] using hd, h⟩

/-- Everything a timeout can leave, as a rejection or nothing. -/
theorem timeoutEffect_cases (s : State) :
    timeoutEffect s = s ∨ timeoutEffect s = s.resync ∨
      ((s.dec.state = .awaitId ∨ s.dec.state = .awaitLength ∨ s.dec.state = .accumulatePayload) ∧
        ∃ a, timeoutEffect s = s.rejectFrame .frameTruncated a) := by
  unfold timeoutEffect
  split <;> simp_all

theorem timeoutStep_cases {s t : State} (h : timeoutStep s = .next t) :
    (s.seq.phase ≠ .idle ∧ t = s) ∨
      (s.seq.phase = .idle ∧ ∃ u, idleStep s = .next u ∧ t = timeoutIfIdle u) := by
  unfold timeoutStep at h
  split at h
  · rename_i hp
    simp only [State.rxReady, decide_eq_true_eq] at hp
    split at h
    · cases h; exact .inr ⟨hp, _, ‹_›, rfl⟩
    · cases h
    · cases h
  · rename_i hp
    simp only [State.rxReady, decide_eq_true_eq] at hp
    cases h; exact .inl ⟨hp, rfl⟩

/-- Everything the dispatch of a control frame's goals can do. -/
theorem dispatchGoals_cases (g : Vector Half 12) (s : State) :
    (∃ k, s.params.policy = .reject ∧ firstOutOfRange g = some k ∧
        dispatchGoals g s = s.failFrame .positionOutOfRange (BitVec.ofNat 8 k)) ∨
      (s.env.adminEnable = true ∧
        dispatchGoals g s = s.acceptControl (clampGoals g) .controlApplied (clampCount g) .write) ∨
      (s.env.adminEnable = false ∧
        dispatchGoals g s = s.acceptControl (clampGoals g) .controlNotApplied (clampCount g) .gather) := by
  unfold dispatchGoals
  split
  · exact .inl ⟨_, ‹_›, ‹_›, rfl⟩
  · unfold acceptGoals
    cases h : s.env.adminEnable <;> simp

/-- Every instruction completes, and leaves one of these states. -/
theorem exec_cases (i : Instr) (s : State) :
    (∃ c a, transactionOutcome c = true ∧ exec i s = .next (s.failFrame c a)) ∨
      (∃ g, i = .instControl (.goals g) ∧
        ((s.env.adminEnable = true ∧
            exec i s = .next (s.acceptControl (clampGoals g) .controlApplied (clampCount g) .write)) ∨
          (s.env.adminEnable = false ∧
            exec i s = .next (s.acceptControl (clampGoals g) .controlNotApplied (clampCount g) .gather)))) := by
  cases i with
  | instOther i p => exact .inl ⟨_, _, rfl, rfl⟩
  | instControl op =>
    cases op with
    | wrongLength p => exact .inl ⟨_, _, rfl, rfl⟩
    | goals g =>
      rcases dispatchGoals_cases g s with ⟨k, _, _, h⟩ | ⟨ha, h⟩ | ⟨ha, h⟩
      · exact .inl ⟨_, _, rfl, congrArg Host.Outcome.next h⟩
      · exact .inr ⟨g, rfl, .inl ⟨ha, congrArg Host.Outcome.next h⟩⟩
      · exact .inr ⟨g, rfl, .inr ⟨ha, congrArg Host.Outcome.next h⟩⟩

/-- Everything VALIDATE can do. -/
theorem validateStep_cases {s t : State} (h : validateStep s = .next t) :
    (∃ c a, transactionOutcome c = true ∧ t = s.failFrame c a) ∨
      (∃ g, instrOfBody (s.rxBuf.read 4) (s.rxBuf.slice 5 (s.dec.lenReg.toNat - 2)) = .instControl (.goals g) ∧
        ((s.env.adminEnable = true ∧ t = s.acceptControl (clampGoals g) .controlApplied (clampCount g) .write) ∨
          (s.env.adminEnable = false ∧
            t = s.acceptControl (clampGoals g) .controlNotApplied (clampCount g) .gather))) := by
  unfold validateStep at h
  simp only at h
  split at h
  · cases h
  · split at h
    · cases h; exact .inl ⟨_, _, rfl, rfl⟩
    · rcases exec_cases (instrOfBody (s.rxBuf.read 4) (s.rxBuf.slice 5 (s.dec.lenReg.toNat - 2))) s with
        ⟨c, a, hc, he⟩ | ⟨g, hi, ⟨ha, he⟩ | ⟨ha, he⟩⟩
      · rw [he] at h; cases h; exact .inl ⟨c, a, hc, rfl⟩
      · rw [he] at h; cases h; exact .inr ⟨g, hi, .inl ⟨ha, rfl⟩⟩
      · rw [he] at h; cases h; exact .inr ⟨g, hi, .inr ⟨ha, rfl⟩⟩

theorem writeStep_cases {s t : State} (h : writeStep s = .next t) :
    ∃ k : Fin 12, s.seq.k.toNat = k.val ∧
      ((k.val < 11 ∧ t = (s.writeGoal k s.seq.goalStage[k]).nextK) ∨
        (k.val = 11 ∧ t = (s.writeGoal k s.seq.goalStage[k]).startPhase .gather)) := by
  unfold writeStep at h
  split at h
  · rename_i hk
    refine ⟨⟨s.seq.k.toNat, hk⟩, rfl, ?_⟩
    cases h
    simp only [Fin.getElem_fin]
    split
    · exact .inl ⟨‹_›, rfl⟩
    · exact .inr ⟨by omega, rfl⟩
  · cases h

/-- A GATHER step stores bytes at addresses 5 to 72 of `tx_buf` and may use a draw. -/
theorem gatherField_cases (s : State) (h : s.seq.k.toNat < 29) :
    ∃ a bs, 5 ≤ a ∧ a + bs.length ≤ 73 ∧
      (gatherField s = s.storeTx a bs ∨ gatherField s = (s.storeTx a bs).useDraw) := by
  unfold gatherField
  simp only
  split
  · exact ⟨_, _, by omega, by simp only [halfBytes, List.length_cons, List.length_nil]; omega, .inl rfl⟩
  · split
    · exact ⟨_, _, by omega, by simp only [halfBytes, List.length_cons, List.length_nil]; omega, .inl rfl⟩
    · exact ⟨_, _, by omega, by simp only [wordBytes, List.length_cons, List.length_nil]; omega, .inr rfl⟩

theorem gatherStep_cases {s t : State} (h : gatherStep s = .next t) :
    s.seq.k.toNat < 29 ∧
      ((s.seq.k.toNat < 28 ∧ t = (gatherField s).nextK) ∨
        (s.seq.k.toNat = 28 ∧ t = (gatherField s).setPhase .seal)) := by
  unfold gatherStep at h
  split at h
  · refine ⟨‹_›, ?_⟩
    cases h
    split
    · exact .inl ⟨‹_›, rfl⟩
    · exact .inr ⟨by omega, rfl⟩
  · cases h

theorem emitStep_cases {s t : State} (h : emitStep s = .next t) :
    s.seq.k.toNat < 74 ∧
      ((s.env.txReady = false ∧ t = s) ∨
        (s.env.txReady = true ∧ s.seq.k.toNat < 73 ∧ t = (s.send s.txData).nextK) ∨
        (s.env.txReady = true ∧ s.seq.k.toNat = 73 ∧ t = (s.send s.txData).setPhase .clear)) := by
  unfold emitStep at h
  split at h
  · refine ⟨‹_›, ?_⟩
    split at h
    · cases h
      split
      · exact .inr (.inl ⟨‹_›, ‹_›, rfl⟩)
      · exact .inr (.inr ⟨‹_›, by omega, rfl⟩)
    · cases h; exact .inl ⟨by simp_all, rfl⟩
  · cases h

/-- Everything the core can do, by phase. -/
theorem coreStep_cases {s t : State} (h : coreStep s = .next t) :
    (s.seq.phase = .idle ∧ idleStep s = .next t) ∨ (s.seq.phase = .validate ∧ validateStep s = .next t) ∨
    (s.seq.phase = .write ∧ writeStep s = .next t) ∨ (s.seq.phase = .gather ∧ gatherStep s = .next t) ∨
    (s.seq.phase = .seal ∧ t = sealStep s) ∨ (s.seq.phase = .emit ∧ emitStep s = .next t) ∨
    (s.seq.phase = .clear ∧ t = clearStep s) := by
  unfold coreStep at h
  split at h <;> first | (cases h; simp_all) | simp_all

/-- Everything a step can do, by turn. -/
theorem step_cases {s t : State} (h : step s = .next t) :
    (s.nextTurn = .core ∧ coreStep s.beginStep = .next t) ∨
    (∃ b, s.nextTurn = .offerByte b ∧ t = s.beginStep.offerByte b) ∨
    (∃ v, s.nextTurn = .setTxReady v ∧ t = s.beginStep.driveTxReady v) ∨
    (s.nextTurn = .timeout ∧ timeoutStep s.beginStep = .next t) ∨
    (∃ r, s.nextTurn = .bus r ∧ t = s.beginStep.busAccess r) ∨
    (∃ v, s.nextTurn = .setAdminEnable v ∧ t = s.beginStep.driveAdminEnable v) ∨
    (∃ w, s.nextTurn = .fixSensor w ∧ t = s.beginStep.fixSensor w) ∨
    (s.nextTurn = .reset ∧ t = s.beginStep.afterRst) := by
  unfold step at h
  generalize s.nextTurn = u at h
  cases u <;> simp only [takeTurn] at h <;> first | (cases h; simp) | simp_all

/-! ### Frames: what a shared operation leaves -/

/-- What a byte step leaves: the sequencer moves only to VALIDATE with the decoder in Done, and an outcome comes only with
`resync()`. -/
theorem byteStep_frame {b : Byte} {s t : State} (h : byteStep b s = .next t) :
    t.params = s.params ∧ t.txBuf = s.txBuf ∧ t.reg = s.reg ∧ t.env = s.env ∧ t.sent = s.sent ∧ t.draws = s.draws ∧
    t.bRdata = s.bRdata ∧
    (t.seq = s.seq ∨
      (t.seq = { s.seq with phase := .validate } ∧ t.dec.state = .done ∧ t.events = s.events ∧ t.evt = s.evt)) ∧
    ((t.events = s.events ∧ t.evt = s.evt) ∨
      (t.dec = Decoder.reset ∧ t.seq = s.seq ∧ ∃ e, t.evt = some e ∧ t.events = s.events ++ [e])) := by
  rcases byteStep_cases h with ⟨_, rfl⟩ | ⟨_, rfl⟩ | ⟨_, rfl⟩ | ⟨_, rfl⟩ | ⟨_, h⟩ | ⟨_, rfl⟩
  · rcases byteAwaitSync1_cases b s with ⟨_, e⟩ | ⟨_, e⟩ <;> rw [e] <;> simp
  · rcases byteAwaitSync2_cases b s with ⟨_, e⟩ | ⟨_, e⟩ <;> rw [e] <;> simp
  · rcases byteAwaitId_cases b s with ⟨_, e⟩ | ⟨_, e⟩ <;> rw [e] <;> simp
  · rcases byteAwaitLength_cases b s with ⟨_, e⟩ | ⟨_, e⟩ | ⟨_, _, e⟩ <;> rw [e] <;> simp
  · rcases byteAccumulate_cases h with ⟨_, ⟨_, rfl⟩ | ⟨_, rfl⟩⟩ <;> simp
  · simp

/-- What a timeout leaves: everything but the decoder session and the outcome port. -/
theorem timeoutIfIdle_frame (s : State) :
    (timeoutIfIdle s).params = s.params ∧ (timeoutIfIdle s).rxBuf = s.rxBuf ∧ (timeoutIfIdle s).seq = s.seq ∧
    (timeoutIfIdle s).txBuf = s.txBuf ∧ (timeoutIfIdle s).reg = s.reg ∧ (timeoutIfIdle s).env = s.env ∧
    (timeoutIfIdle s).sent = s.sent := by
  rw [timeoutIfIdle_eq]
  split
  · rcases timeoutEffect_cases s with e | e | ⟨_, a, e⟩ <;> rw [e] <;> simp
  · simp

/-- Everything a timeout can do: nothing, or in IDLE past AwaitSync1 a `resync()`, with or without an outcome. -/
theorem timeoutIfIdle_cases (s : State) :
    timeoutIfIdle s = s ∨
      (s.dec.state ≠ .awaitSync1 ∧ s.seq.phase = .idle ∧
        (timeoutIfIdle s = s.resync ∨ ∃ a, timeoutIfIdle s = s.rejectFrame .frameTruncated a)) := by
  rw [timeoutIfIdle_eq]
  split
  · rename_i hp
    by_cases h1 : s.dec.state = .awaitSync1
    · unfold timeoutEffect; rw [h1]; exact .inl rfl
    · rcases timeoutEffect_cases s with e | e | ⟨_, a, e⟩
      · exact .inl e
      · exact .inr ⟨h1, hp, .inl e⟩
      · exact .inr ⟨h1, hp, .inr ⟨a, e⟩⟩
  · exact .inl rfl

/-- What the idle core leaves of the receive line: all of it, or all but the oldest byte. -/
theorem idleStep_rxLine {s t : State} (h : idleStep s = .next t) :
    t.env.rxLine = s.env.rxLine ∨ ∃ b, s.env.rxLine = b :: t.env.rxLine := by
  rcases idleStep_cases h with rfl | ⟨b, rest, hl, _, hb⟩
  · exact .inl rfl
  · obtain ⟨_, _, _, he, _⟩ := byteStep_frame hb
    exact .inr ⟨b, by rw [he]; simp [hl]⟩

/-- What the idle core leaves of the turns to come: all of them. -/
theorem idleStep_schedule {s t : State} (h : idleStep s = .next t) :
    t.env.script = s.env.script ∧ t.env.later = s.env.later := by
  rcases idleStep_cases h with rfl | ⟨_, _, _, _, hb⟩
  · exact ⟨rfl, rfl⟩
  · rw [(byteStep_frame hb).2.2.2.1]; exact ⟨rfl, rfl⟩

/-- What a GATHER read leaves: everything but `tx_buf` and the draws. -/
theorem gatherField_frame (s : State) (h : s.seq.k.toNat < 29) :
    (gatherField s).params = s.params ∧ (gatherField s).dec = s.dec ∧ (gatherField s).rxBuf = s.rxBuf ∧
    (gatherField s).seq = s.seq ∧ (gatherField s).reg = s.reg ∧ (gatherField s).env.rxLine = s.env.rxLine ∧
    (gatherField s).evt = s.evt ∧ (gatherField s).events = s.events ∧ (gatherField s).sent = s.sent := by
  obtain ⟨a, bs, _, _, e | e⟩ := gatherField_cases s h <;> rw [e] <;> simp

/-- What a port-B access leaves: everything but the register map and `b_rdata`. -/
theorem busAccess_frame (s : State) (r : BusRequest) :
    (s.busAccess r).params = s.params ∧ (s.busAccess r).dec = s.dec ∧ (s.busAccess r).rxBuf = s.rxBuf ∧
    (s.busAccess r).seq = s.seq ∧ (s.busAccess r).txBuf = s.txBuf ∧ (s.busAccess r).env = s.env ∧
    (s.busAccess r).evt = s.evt ∧ (s.busAccess r).events = s.events ∧ (s.busAccess r).sent = s.sent := by
  rcases busAccess_cases s r with ⟨_, e⟩ | ⟨_, e⟩
  · rw [e]; simp
  · rcases busWrite_cases s r.addr r.wdata with e2 | ⟨k, _, e2⟩ <;> rw [e, e2] <;> simp

/-- What the core leaves of the turns to come: all of them. -/
theorem coreStep_schedule {s t : State} (h : coreStep s = .next t) :
    t.env.script = s.env.script ∧ t.env.later = s.env.later := by
  rcases coreStep_cases h with ⟨_, h⟩ | ⟨_, h⟩ | ⟨_, h⟩ | ⟨_, h⟩ | ⟨_, rfl⟩ | ⟨_, h⟩ | ⟨_, rfl⟩
  · exact idleStep_schedule h
  · rcases validateStep_cases h with ⟨_, _, _, rfl⟩ | ⟨_, _, ⟨_, rfl⟩ | ⟨_, rfl⟩⟩ <;> simp
  · obtain ⟨_, _, ⟨_, rfl⟩ | ⟨_, rfl⟩⟩ := writeStep_cases h <;> simp
  · obtain ⟨hk, h⟩ := gatherStep_cases h
    obtain ⟨_, _, _, _, e⟩ := gatherField_cases s hk
    rcases h with ⟨_, rfl⟩ | ⟨_, rfl⟩ <;> rcases e with e | e <;> simp [e]
  · exact ⟨rfl, rfl⟩
  · obtain ⟨_, ⟨_, rfl⟩ | ⟨_, _, rfl⟩ | ⟨_, _, rfl⟩⟩ := emitStep_cases h <;> simp
  · cases ho : s.seq.outcome with
    | none => rw [clearStep_none ho]; exact ⟨rfl, rfl⟩
    | some c => rw [clearStep_some ho]; exact ⟨rfl, rfl⟩

/-- What every step leaves of the turns to come: all but the one it used up (R240). -/
theorem step_schedule {s t : State} (h : step s = .next t) :
    t.env.script = s.env.useTurn.script ∧ t.env.later = s.env.useTurn.later := by
  rcases step_cases h with ⟨_, h⟩ | ⟨_, _, rfl⟩ | ⟨_, _, rfl⟩ | ⟨_, h⟩ | ⟨r, _, rfl⟩ | ⟨_, _, rfl⟩ | ⟨_, _, rfl⟩ | ⟨_, rfl⟩
  · exact coreStep_schedule h
  · exact ⟨rfl, rfl⟩
  · exact ⟨rfl, rfl⟩
  · rcases timeoutStep_cases h with ⟨_, rfl⟩ | ⟨_, u, hu, rfl⟩
    · exact ⟨rfl, rfl⟩
    · rw [(timeoutIfIdle_frame u).2.2.2.2.2.1]; exact idleStep_schedule hu
  · rw [(busAccess_frame s.beginStep r).2.2.2.2.2.1]; exact ⟨rfl, rfl⟩
  · exact ⟨rfl, rfl⟩
  · exact ⟨rfl, rfl⟩
  · exact ⟨rfl, rfl⟩

/-- Once alone, the core stays alone. -/
theorem alone_of_step {s t : State} (ha : s.alone) (h : step s = .next t) : t.alone := by
  obtain ⟨h1, h2⟩ := step_schedule h
  rw [Env.useTurn_alone ha.1 ha.2] at h1 h2
  exact ⟨h1.trans ha.1, h2.trans ha.2⟩

/-- The turns to come after a step: those before it without the first. -/
theorem turnAt_of_step {s t : State} (h : step s = .next t) (n : Nat) : t.env.turnAt n = s.env.turnAt (n + 1) :=
  Env.turnAt_congr (step_schedule h).1 (step_schedule h).2 n

/-- The bytes still to be offered after a step: those before it without the first turn's. -/
theorem offeredIn_of_step {s t : State} (h : step s = .next t) (n : Nat) :
    s.env.offeredIn (n + 1) = s.nextTurn.offered ++ t.env.offeredIn n :=
  congrArg (s.nextTurn.offered ++ ·) (Env.offeredIn_congr (step_schedule h).1 (step_schedule h).2 n).symm

/-- The invariant reads the block only: not the environment, the outputs or the observations. -/
theorem State.Inv.congr {s t : State} (i : s.Inv) (h1 : t.params = s.params) (h2 : t.dec = s.dec)
    (h3 : t.rxBuf = s.rxBuf) (h4 : t.seq = s.seq) (h5 : t.txBuf = s.txBuf) (h6 : t.reg = s.reg) : t.Inv := by
  obtain ⟨a1, a2, a3, a4, a5, a6, a7, a8, a9, a10, a11, a12, a13⟩ := i
  constructor <;> simp only [h1, h2, h3, h4, h5, h6] <;> assumption

/-! ### Runs -/

@[simp] theorem runSteps_zero (s : State) : runSteps 0 s = .next s := rfl

/-- The host's run of any machine, by the outcome of its first step. -/
theorem core_run_next (M : Host.Core) {s t : M.State} (n : Nat) (h : M.step s = .next t) :
    M.run (n + 1) s = M.run n t := by rw [Host.Core.run, h]

theorem core_run_fault (M : Host.Core) {s : M.State} {r : M.Fault} (n : Nat) (h : M.step s = .fault r) :
    M.run (n + 1) s = .fault r := by rw [Host.Core.run, h]

theorem core_run_refused (M : Host.Core) {s : M.State} {r : M.Refusal} (n : Nat) (h : M.step s = .refused r) :
    M.run (n + 1) s = .refused r := by rw [Host.Core.run, h]

/-- `runSteps` is the host's run of the machine. -/
theorem runSteps_eq_core_run (n : Nat) (s : State) : runSteps n s = Host.Core.run Sys2Proof.core n s := by
  induction n generalizing s with
  | zero => rfl
  | succ n ih =>
    cases h : step s with
    | next t => exact (by rw [runSteps, h]; exact ih t : runSteps (n + 1) s = _).trans (core_run_next core n h).symm
    | fault r => exact (by rw [runSteps, h] : runSteps (n + 1) s = .fault r).trans (core_run_fault core n h).symm
    | refused r => exact (by rw [runSteps, h] : runSteps (n + 1) s = .refused r).trans (core_run_refused core n h).symm

/-- One step, then the rest of the run. -/
theorem runSteps_succ {s t : State} (n : Nat) (h : step s = .next t) : runSteps (n + 1) s = runSteps n t := by
  rw [runSteps, h]

/-- A run in two parts. -/
theorem runSteps_add {s t : State} (m n : Nat) (h : runSteps m s = .next t) : runSteps (m + n) s = runSteps n t := by
  induction m generalizing s with
  | zero => cases h; simp
  | succ m ih =>
    cases hs : step s with
    | next u =>
      rw [runSteps_succ m hs] at h
      rw [show m + 1 + n = (m + n) + 1 by omega, runSteps_succ (m + n) hs]
      exact ih h
    | fault r => rw [runSteps, hs] at h; cases h
    | refused r => rw [runSteps, hs] at h; cases h

end Sys2Proof.Machine
end

