-- ==== Sys2Proof/Tests/Slice0.lean ====
section
/-! SUPPORT. Small tests. Expected results are the vectors of 95_test_vectors.md, named in each comment. After them, for
every obligation that has hypotheses, a named witness that meets them. -/

namespace Sys2Proof.Tests

open Sys2Proof Sys2Proof.Machine

/-! ### Helpers -/

/-- The all-512 goals, and their payload bytes `(00 02)×12`. -/
def goals512 : Vector Half 12 := Vector.replicate 12 512

def payload512 : List Byte := (List.replicate 12 [0x00, 0x02]).flatten

/-- The goals of V-DIS-2: `0, 100, 1023, 1024, 65535, 512×7`. -/
def goalsMixed : Vector Half 12 := #v[0, 100, 1023, 1024, 65535, 512, 512, 512, 512, 512, 512, 512]

/-- A small concrete machine: every parameter and register given, nothing free. -/
def base : State :=
  { params := { cap := 128, policy := .clamp, torqueReset := 1 }
    dec := Decoder.reset
    rxBuf := []
    seq := Sequencer.reset
    txBuf := []
    reg := Vector.replicate 12
      { torqueSwitch := 1, goalPosition := 512, presentPosition := 500, presentVelocity := 7, presentLoad := 3 }
    env := Env.quiet
    evt := none
    bRdata := none
    events := []
    sent := []
    draws := 0 }

def rejecting (s : State) : State := { s with params := { s.params with policy := .reject } }

/-- The decoder in state `d`, with `line` offered and the core's turn next. -/
def offering (d : DecState) (line : List Byte) : State :=
  { base with dec := { base.dec with state := d }, env := { base.env with rxLine := line } }

/-- The decoder in AccumulatePayload with length `len` and `count` bytes collected. -/
def accumulating (len count : Byte) (line : List Byte) : State :=
  { offering .accumulatePayload line with
    dec := { state := .accumulatePayload, idReg := 1, lenReg := len, count := count, acc := 0 } }

/-- The sequencer in phase `p` at index `k`, as in a successful control transaction. -/
def inPhase (p : Phase) (k : BitVec 7) : State :=
  { base with
    dec := { base.dec with state := .done, lenReg := 26, count := 26 }
    seq := { base.seq with phase := p, k := k, outcome := some .controlApplied } }

/-- The turn of an agent is next. -/
def onTurn (t : Turn) (s : State) : State := { s with env := { s.env with script := [t] } }

/-- The state whose turns to come are these, then those of a schedule without end. -/
def withTurns (ts : List Turn) (r : Schedule) (s : State) : State := { s with env := { s.env with script := ts, later := r } }

/-- What a test asks of the next state; a fault or a refusal fails the test. -/
def after (o : Host.Outcome State Fault Refusal) (p : State → Bool) : Bool :=
  match o with
  | .next t => p t
  | .fault _ => false
  | .refused _ => false

/-! ### WellFormed: one ill-formed term for each check -/

theorem test_wf_control : (Instr.instControl (.goals goals512)).wf 30 = true := by decide
theorem test_wf_other_longest : (Instr.instOther 0x7F (List.replicate 122 0xAA)).wf 128 = true := by decide +kernel
theorem test_wf_goals_need_thirty_bytes : (Instr.instControl (.goals goals512)).wf 29 = false := by decide
theorem test_wf_other_is_not_control : (Instr.instOther 0x01 []).wf 128 = false := by decide
theorem test_wf_payload_over_cap : (Instr.instOther 0x05 (List.replicate 123 0)).wf 128 = false := by decide +kernel
theorem test_wf_payload_over_length_byte : (Instr.instOther 0x05 (List.replicate 254 0)).wf 300 = false := by
  decide +kernel
theorem test_wf_wrongLength_is_not_24 : (Instr.instControl (.wrongLength payload512)).wf 128 = false := by decide
theorem test_wf_wrongLength_over_cap : (Instr.instControl (.wrongLength (List.replicate 25 0))).wf 30 = false := by decide
theorem test_params_cap_bounds : [29, 30, 259, 260].map (fun c => (Params.mk c .clamp 0).wf) = [false, true, true, false] := by
  decide

/-! ### Codec -/

/-- V-CK-1, V-CK-2, V-CK-3, V-CK-5, V-CK-8. -/
theorem test_compute : [[0x01, 0x02, 0x05], [0x01, 0x02, 0x01], [0x01, 0x1A, 0x01] ++ payload512,
    [0x01, 0x1A, 0x01] ++ List.replicate 24 0x00, [0x00]].map compute = [0xF7, 0xFB, 0xCB, 0xE3, 0xFF] := by decide

/-- V-CK-9 to V-CK-13. -/
theorem test_verify : [[0x01, 0x02, 0x05, 0xF7], [0x01, 0x02, 0x04, 0xF7], [0x01, 0x02, 0x05, 0xF6], [0x01, 0x02, 0xFB, 0xF7],
    [0x02, 0x01, 0x05, 0xF7]].map verify = [true, false, false, false, true] := by decide

/-- V-CK-14: the reply's checksum. -/
theorem test_compute_reply :
    compute ([0x01, 0x46, 0x00] ++ (List.replicate 12 [0xF4, 0x01]).flatten ++ List.replicate 44 0x00) = 0x3C := by
  decide +kernel

/-! ### Decoding, by words written out from 30_encoding.md R84 and R88 -/

/-- V-DIS-2's frame: goals differ by index, so byte order and position both show. -/
theorem test_decode_control_mixed :
    decode 128 ([0xFF, 0xFF, 0x01, 0x1A, 0x01, 0x00, 0x00, 0x64, 0x00, 0xFF, 0x03, 0x00, 0x04, 0xFF, 0xFF]
      ++ (List.replicate 7 [0x00, 0x02]).flatten ++ [0x6D]) = .ok (.instControl (.goals goalsMixed)) [] := by
  decide +kernel

/-- V-DIS-11: `INST_CONTROL` with `L = 27`. -/
theorem test_decode_control_long :
    decode 128 ([0xFF, 0xFF, 0x01, 0x1B, 0x01] ++ List.replicate 25 0x00 ++ [0xE2])
      = .ok (.instControl (.wrongLength (List.replicate 25 0x00))) [] := by decide +kernel

/-- V-DEC-19: sync bytes inside the payload are data. -/
theorem test_decode_other_payload :
    decode 128 [0xFF, 0xFF, 0x01, 0x06, 0x07, 0xFF, 0xFF, 0x01, 0x02, 0xF0, 0x55]
      = .ok (.instOther 0x07 [0xFF, 0xFF, 0x01, 0x02]) [0x55] := by decide +kernel

/-- V-DIS-15: the other instruction with a control-sized payload, encoded. -/
theorem test_encode_other : encode (.instOther 0x02 payload512) = [0xFF, 0xFF, 0x01, 0x1A, 0x02] ++ payload512 ++ [0xCA] := by
  decide +kernel

/-- V-DIS-1's frame, encoded. -/
theorem test_encode_control :
    encode (.instControl (.goals goals512)) = [0xFF, 0xFF, 0x01, 0x1A, 0x01] ++ payload512 ++ [0xCB] := by decide +kernel

/-- Rejections by name: a bad second sync byte, and a frame whose last byte is missing. -/
theorem test_decode_rejects :
    [decode 128 [0xFF, 0x33, 0x01, 0x02, 0x05, 0xF7], decode 128 [0xFF, 0xFF, 0x01, 0x02, 0x05]]
      = [.error .badSync, .error .truncated] := by decide

/-- The two rows of the opcode table. -/
theorem test_tableWord_control : decodeTableWord 8 0x01 = some (.instControl (.goals (Vector.replicate 12 0))) := by
  decide +kernel
theorem test_tableWord_other : decodeTableWord 8 0x05 = some (.instOther 0x05 (List.replicate 24 0)) := by decide +kernel

/-! ### The two instructions -/

/-- V-DIS-2: two goals clamped, `admin_enable = 1`. -/
theorem test_control_clamps : after (exec (.instControl (.goals goalsMixed)) base) (fun t =>
    t.seq == { phase := .write, k := 0, outcome := some .controlApplied, arg := 2,
               goalStage := #v[0, 100, 1023, 1023, 1023, 512, 512, 512, 512, 512, 512, 512] }) = true := by decide +kernel

/-- V-DIS-3: under REJECT the least index out of range is 3, and nothing is staged. -/
theorem test_control_rejects : after (exec (.instControl (.goals goalsMixed)) (rejecting base)) (fun t =>
    t.seq == { base.seq with phase := .clear, outcome := some .positionOutOfRange, arg := 3 }) = true := by decide +kernel

/-- V-DIS-12. -/
theorem test_other : after (exec (.instOther 0x05 []) base) (fun t =>
    t.seq == { base.seq with phase := .clear, outcome := some .unknownInstruction, arg := 0x05 }) = true := by decide

/-- V-DIS-16: a bad checksum comes before an unknown instruction (R234). -/
theorem test_mismatch_first : after (step (base.withFrame [0xFF, 0xFF, 0x01, 0x02, 0x05, 0x00])) (fun t =>
    t.seq.outcome == some .checksumMismatch && t.seq.arg == 0x00 && t.seq.phase == .clear) = true := by decide +kernel

/-- A table word placed after reset runs in the next step. -/
theorem test_fetch_control : after (step (State.reset.withFetchWord 8 0x01)) (fun t =>
    t.seq.outcome == some .controlApplied && t.seq.phase == .write) = true := by decide +kernel
theorem test_fetch_other : after (step (State.reset.withFetchWord 8 0x05)) (fun t =>
    t.seq.outcome == some .unknownInstruction && t.seq.arg == 0x05) = true := by decide +kernel

/-! ### Byte steps, timeouts, phase steps, port B -/

/-- V-DEC-4: a foreign id; the byte is stored and the outcome is on the port. -/
theorem test_foreign_id : after (step (offering .awaitId [0x02, 0x1A])) (fun t =>
    t.dec.state == .awaitSync1 && t.evt == some ⟨.headerRejectedId, 0x02⟩ && t.env.rxLine == [0x1A]) = true := by decide

/-- V-DEC-14 to V-DEC-17: the length bound at `CAP = 128` and at `CAP = 30`. -/
theorem test_length_bound : [(128, 0x7C), (128, 0x7D), (30, 0x1A), (30, 0x1B), (128, 0x01), (128, 0x02)].map (fun (c, b) =>
    after (step { offering .awaitLength [b] with params := { base.params with cap := c } }) (fun t =>
      t.dec.state == .accumulatePayload)) = [true, false, true, false, false, true] := by decide

/-- R128's example: `L = 2`, the byte `F7` is the checksum and is not summed. -/
theorem test_last_byte : after (step (accumulating 2 1 [0xF7])) (fun t =>
    t.dec.state == .done && t.dec.acc == 0 && t.seq.phase == .validate && t.rxBuf == [(5, 0xF7)]) = true := by decide

/-- R131's example: `count = 7` gives `(FRAME_TRUNCATED, 11)`. -/
theorem test_timeout : after (step (onTurn .timeout (accumulating 26 7 []))) (fun t =>
    t.dec == Decoder.reset && t.events == [⟨.frameTruncated, 11⟩]) = true := by decide

/-- V-DEC-31: the argument is at most 255. -/
theorem test_timeout_cap : after (step (onTurn .timeout (accumulating 255 254 []))) (fun t =>
    t.evt == some ⟨.frameTruncated, 255⟩) = true := by decide

/-- V-DEC-33: the byte is taken first and enters Done, so the timeout is ignored. -/
theorem test_byte_before_timeout : after (step (onTurn .timeout (accumulating 26 25 [0xCB]))) (fun t =>
    t.dec.state == .done && t.events == []) = true := by decide

/-- R193's example: 500 is `F4 01`. -/
theorem test_gather : after (step (inPhase .gather 0)) (fun t => t.txBuf == [(5, 0xF4), (6, 0x01)]) = true := by decide

/-- V-REP-2: the pattern of 1.5 goes out low byte first. -/
theorem test_gather_sensor : after (step { inPhase .gather 24 with env := { base.env with sensorFeed := [0x3FC00000] } })
    (fun t => t.txBuf == [(55, 0xC0), (56, 0x3F)] && t.env.sensorFeed == []) = true := by decide

/-- V-RM-1 to V-RM-5, V-RM-10, V-RM-11 with `TORQUE_RESET = 1`. -/
theorem test_portB_reads : [0x00, 0x58, 0x01, 0x02, 0x06, 0x60, 0x7F].map (fun a => base.busRead a)
    = [0x0001, 0x000C, 0x0001, 0x0200, 0x0000, 0x0000, 0x0000] := by decide

/-- V-RM-7 and V-RM-5: a telemetry field takes the write, a goal ignores it. -/
theorem test_portB_writes : ((base.busWrite 0x0B 0x03E8).busRead 0x0B, (base.busWrite 0x02 0x0005).busRead 0x02)
    = (0x03E8, 0x0200) := by decide

/-! ### Witnesses -/

/-- `base` meets the invariant; the witnesses below need it of a few more states. -/
theorem base_inv : base.Inv := by constructor <;> decide

theorem inPhase_inv : (inPhase .write 11).Inv := by constructor <;> decide

theorem received_inv : (base.withFrame [0xFF, 0xFF, 0x01, 0x02, 0x05, 0xF7]).Inv := by constructor <;> decide +kernel

theorem witness_ResetLeavesSpecValues : (onTurn .reset base).nextTurn = .reset := rfl

theorem witness_ResetAbandonsTransaction :
    (onTurn .reset (inPhase .emit 10)).nextTurn = .reset ∧ (onTurn .reset (inPhase .emit 10)).seq.phase ≠ .idle := by decide

theorem witness_VerifyIffSumIsAllOnes : ([0x01, 0x02, 0x05, 0xF7] : List Byte) ≠ [] := by decide

theorem witness_SingleBitErrorDetected : verify ([0x01, 0x02] ++ 0x05 :: [0xF7]) = true := by decide

theorem witness_SumPreservingChangePasses :
    sum8 [0x00, 0x02] = sum8 [0xFF, 0x03] ∧ ([0x01, 0x02] : List Byte).Perm [0x02, 0x01] :=
  ⟨by decide, List.Perm.swap _ _ _⟩

theorem witness_RaisedLengthPassesVerify : verify ((0x01 : Byte) :: 0x02 :: [0x05] ++ [0xF7]) = true := by decide

theorem witness_DecodeOfEncode :
    (Instr.instControl (.goals goalsMixed)).wf 30 = true ∧ (Instr.instControl (.wrongLength [])).wf 30 = true ∧
      (Instr.instOther 0x00 []).wf 30 = true := by decide

theorem witness_EncodeOfDecode :
    decode 128 [0xFF, 0xFF, 0x01, 0x02, 0x05, 0xF7, 0x55] = .ok (.instOther 0x05 []) [0x55] := by decide

theorem witness_ByteInAwaitSync1 : ∀ b ∈ [(0xFF : Byte), 0x12],
    (offering .awaitSync1 [b]).offers b [] ∧ (offering .awaitSync1 [b]).dec.state = .awaitSync1 := by
  intro b _; exact ⟨⟨rfl, rfl, rfl⟩, rfl⟩

theorem witness_ByteInAwaitSync2 : ∀ b ∈ [(0xFF : Byte), 0x33],
    (offering .awaitSync2 [b]).offers b [] ∧ (offering .awaitSync2 [b]).dec.state = .awaitSync2 := by
  intro b _; exact ⟨⟨rfl, rfl, rfl⟩, rfl⟩

theorem witness_ByteInAwaitId : ∀ b ∈ [(0x01 : Byte), 0x02, 0xFF],
    (offering .awaitId [b]).offers b [] ∧ (offering .awaitId [b]).dec.state = .awaitId := by
  intro b _; exact ⟨⟨rfl, rfl, rfl⟩, rfl⟩

theorem witness_ByteInAwaitLength : ∀ b : Byte,
    (offering .awaitLength [b]).offers b [] ∧ (offering .awaitLength [b]).dec.state = .awaitLength ∧
      30 ≤ (offering .awaitLength [b]).params.cap := by
  intro b; exact ⟨⟨rfl, rfl, rfl⟩, rfl, show 30 ≤ 128 by decide⟩

/-- The clauses of ByteInAwaitLength at `CAP = 128`: 0 and 1, 2 and 124, 125 and 255, each under one clause only. -/
theorem witness_ByteInAwaitLength_clauses : [0x00, 0x01, 0x02, 0x7C, 0x7D, 0xFF].map (fun b : Byte =>
    (decide (b.toNat < 2), decide (2 ≤ b.toNat ∧ b.toNat ≤ 128 - 4), decide (128 - 4 < b.toNat)))
    = [(true, false, false), (true, false, false), (false, true, false), (false, true, false), (false, false, true),
       (false, false, true)] := by decide

/-- Both clauses of ByteInAccumulate, at the shortest length. -/
theorem witness_ByteInAccumulate : ∀ c ∈ [(0 : Byte), 1],
    (accumulating 2 c [0x05]).offers 0x05 [] ∧ (accumulating 2 c [0x05]).dec.state = .accumulatePayload ∧
      (accumulating 2 c [0x05]).dec.count.toNat < (accumulating 2 c [0x05]).dec.lenReg.toNat ∧
      (accumulating 2 c [0x05]).dec.lenReg.toNat + 4 ≤ (accumulating 2 c [0x05]).params.cap ∧
      (c = 0 → (accumulating 2 c [0x05]).dec.count.toNat + 1 < (accumulating 2 c [0x05]).dec.lenReg.toNat) ∧
      (c = 1 → (accumulating 2 c [0x05]).dec.count.toNat + 1 = (accumulating 2 c [0x05]).dec.lenReg.toNat) := by
  intro c hc
  have : c = 0 ∨ c = 1 := by simpa using hc
  rcases this with rfl | rfl <;> exact ⟨⟨rfl, rfl, rfl⟩, rfl, by decide, by decide, by decide, by decide⟩

theorem witness_TimeoutEvent_busy :
    (onTurn .timeout (inPhase .emit 0)).nextTurn = .timeout ∧ (onTurn .timeout (inPhase .emit 0)).seq.phase ≠ .idle := by decide

theorem witness_TimeoutEvent_quiet : ∀ d : DecState, (onTurn .timeout (offering d [])).nextTurn = .timeout ∧
    (onTurn .timeout (offering d [])).seq.phase = .idle ∧ (onTurn .timeout (offering d [])).env.rxLine = [] := by
  intro d; exact ⟨rfl, rfl, rfl⟩

theorem witness_TimeoutEvent_withByte :
    (onTurn .timeout (offering .awaitId [0x01])).nextTurn = .timeout ∧
      (onTurn .timeout (offering .awaitId [0x01])).seq.phase = .idle ∧
      (onTurn .timeout (offering .awaitId [0x01])).env.rxLine ≠ [] ∧
      ∃ u, step (onTurn .core (offering .awaitId [0x01])) = .next u := ⟨rfl, rfl, by decide, _, rfl⟩

theorem witness_IdleCoreWaits : base.coreIn .idle ∧ base.env.rxLine = [] := ⟨⟨rfl, rfl⟩, rfl⟩

theorem witness_WaitingBytesKeptInOrder :
    (∃ t, step (inPhase .seal 0) = .next t ∧ (inPhase .seal 0).seq.phase ≠ .idle) ∧
      (∃ t, step (onTurn (.offerByte 0x12) base) = .next t) ∧ ∃ t, step (offering .awaitSync1 [0x12]) = .next t :=
  ⟨⟨_, rfl, by decide⟩, ⟨_, rfl⟩, ⟨_, rfl⟩⟩

/-- FrameReachesDone at the shortest length and at `CAP - 4`. -/
theorem witness_FrameReachesDone : ∀ len ∈ [(2 : Byte), 124],
    let body := List.replicate len.toNat (0xFF : Byte)
    let s := offering .awaitSync1 (0xFF :: 0xFF :: 0x01 :: len :: (body ++ [0x55]))
    s.alone ∧ s.seq.phase = .idle ∧ s.dec.state = .awaitSync1 ∧ s.rxBuf.wf = true ∧ 2 ≤ len.toNat ∧
      len.toNat + 4 ≤ s.params.cap ∧ body.length = len.toNat := by
  intro len h
  have : len = 2 ∨ len = 124 := by simpa using h
  rcases this with rfl | rfl <;> exact ⟨⟨rfl, rfl⟩, rfl, rfl, rfl, by decide, by decide, List.length_replicate⟩

/-- The shortest frame offered a byte at a time, a port-B write and a rise of `tx_ready` in its gaps, with a byte behind it. -/
def splitFrame : State :=
  withTurns [.offerByte 0xFF, .core, .offerByte 0xFF, .core, .bus ⟨true, 0x5B, 9⟩, .offerByte 0x01, .offerByte 0x02, .core,
    .core, .offerByte 0x05, .setTxReady true, .core, .offerByte 0xF7, .offerByte 0x55, .core, .core] .quiet base

theorem witness_SplitFrameReachesDone :
    splitFrame.seq.phase = .idle ∧ splitFrame.dec.state = .awaitSync1 ∧ splitFrame.rxBuf.wf = true ∧
      (∀ m, m < 16 → splitFrame.env.turnAt m ≠ .timeout ∧ splitFrame.env.turnAt m ≠ .reset) ∧
      splitFrame.env.rxLine ++ splitFrame.env.offeredIn 16 = 0xFF :: 0xFF :: 0x01 :: 0x02 :: ([0x05, 0xF7] ++ [0x55]) ∧
      ∃ t, runSteps 16 splitFrame = .next t ∧ t.env.rxLine.length ≤ [0x55].length :=
  ⟨rfl, rfl, rfl, by decide, rfl, _, rfl, by decide⟩

theorem awaitSync2_inv : (offering .awaitSync2 []).Inv := by constructor <;> decide

/-- ReturnsToScanning from the state with the largest bound, by bytes and by a timeout. -/
theorem witness_ReturnsToScanning :
    let s := offering .awaitSync2 (List.replicate 127 0xFF)
    (s.Inv ∧ s.seq.phase = .idle ∧ s.alone ∧ s.params.cap - 1 ≤ s.env.rxLine.length) ∧
      (onTurn .timeout s).Inv ∧ (onTurn .timeout s).nextTurn = .timeout :=
  ⟨⟨awaitSync2_inv.congr rfl rfl rfl rfl rfl rfl, rfl, ⟨rfl, rfl⟩, List.length_replicate.ge⟩,
    awaitSync2_inv.congr rfl rfl rfl rfl rfl rfl, rfl⟩

theorem witness_SyncRunLocksModThree : ∀ n ∈ [0, 2, 3],
    let s := offering .awaitSync1 (List.replicate n 0xFF ++ 0x01 :: [0x02])
    s.alone ∧ s.seq.phase = .idle ∧ s.dec.state = .awaitSync1 := by
  intro n _; exact ⟨⟨rfl, rfl⟩, rfl, rfl⟩

/-- V-DEC-1's noise. -/
theorem witness_NoiseIsDiscarded : let s := offering .awaitSync1 ([0x12, 0x34, 0x00, 0x7E] ++ [0xFF])
    s.alone ∧ s.seq.phase = .idle ∧ s.dec.state = .awaitSync1 ∧ ∀ b ∈ [(0x12 : Byte), 0x34, 0x00, 0x7E], b ≠ 0xFF := by
  exact ⟨⟨rfl, rfl⟩, rfl, rfl, by decide⟩

theorem unending_turns (b : Byte) (m : Nat) : ∀ s : State, s.env.script = [] → s.env.later = .cycle (.offerByte b) [.core] →
    s.env.turnAt (2 * m) = .offerByte b ∧ s.env.turnAt (2 * m + 1) = .core := by
  induction m with
  | zero => intro s h1 h2; simp [Env.turnAt, Env.nextTurn, Env.useTurn, h1, h2, Schedule.turn, Schedule.rest]
  | succ m ih =>
    intro s h1 h2
    exact ih { s with env := s.env.useTurn.useTurn } (by simp [h1])
      (by simp [Env.useTurn, h1, h2, Schedule.rest])

/-- One noise byte over and over. -/
theorem witness_UnendingNoiseIsTaken :
    let s := withTurns [] (.cycle (.offerByte 0x12) [.core]) base
    s.seq.phase = .idle ∧ s.dec.state = .awaitSync1 ∧ s.env.rxLine = [] ∧ (0x12 : Byte) ≠ 0xFF ∧
      ∀ m, s.env.turnAt (2 * m) = .offerByte 0x12 ∧ s.env.turnAt (2 * m + 1) = .core :=
  ⟨rfl, rfl, rfl, by decide, fun m => unending_turns 0x12 m _ rfl rfl⟩

/-- Both ways ControlAcceptedCompletes can hold. -/
theorem witness_ControlAcceptedCompletes :
    base.params.policy = .clamp ∧ (rejecting base).params.policy = .reject ∧ ∀ k : Fin 12, (Vector.replicate 12 1023)[k] ≤ (1023 : Half) :=
  ⟨rfl, rfl, by decide⟩

theorem witness_ControlOutOfRangeRejected :
    (rejecting base).params.policy = .reject ∧ 1023 < goalsMixed[3] ∧ ∀ j : Fin 12, j < 3 → goalsMixed[j] ≤ 1023 := by decide

/-- InstructionFrame: an instruction that ends in CLEAR, and one that does not. -/
theorem witness_InstructionFrame :
    (∃ t, exec (.instOther 0x05 []) base = .next t ∧ t.seq.phase = .clear) ∧
      ∃ t, exec (.instControl (.goals goals512)) base = .next t ∧ t.seq.phase ≠ .clear :=
  ⟨⟨_, rfl, rfl⟩, ⟨_, rfl, by decide⟩⟩

/-- The state VALIDATE reads for `FF FF 01 02 05 F7`. -/
def received : State := base.withFrame [0xFF, 0xFF, 0x01, 0x02, 0x05, 0xF7]

theorem witness_StepRunsDecodedInstruction :
    received.coreIn .validate ∧
      decode received.params.cap (received.rxBuf.slice 0 (received.dec.lenReg.toNat + 4)) = .ok (.instOther 0x05 []) [] ∧
      received.dec.acc = sum8 (received.rxBuf.slice 2 (received.dec.lenReg.toNat + 1)) :=
  ⟨⟨rfl, rfl⟩, by decide, by decide⟩

/-- The same frame with the checksum byte `F6` (V-CK-11). -/
def corrupted : State := base.withFrame [0xFF, 0xFF, 0x01, 0x02, 0x05, 0xF6]

theorem witness_ChecksumMismatchDropsFrame :
    corrupted.coreIn .validate ∧ corrupted.dec.lenReg.toNat + 4 ≤ corrupted.params.cap ∧
      corrupted.rxBuf.read (corrupted.dec.lenReg.toNat + 3) ≠ ~~~ corrupted.dec.acc := ⟨⟨rfl, rfl⟩, by decide, by decide⟩

theorem witness_ValidateChecksInOrder :
    received.coreIn .validate ∧ 2 ≤ received.dec.lenReg.toNat ∧ received.dec.lenReg.toNat + 4 ≤ received.params.cap :=
  ⟨⟨rfl, rfl⟩, by decide, by decide⟩

/-- V-DIS-2's frame, received. -/
def controlReceived : State :=
  base.withFrame ([0xFF, 0xFF, 0x01, 0x1A, 0x01, 0x00, 0x00, 0x64, 0x00, 0xFF, 0x03, 0x00, 0x04, 0xFF, 0xFF]
    ++ (List.replicate 7 [0x00, 0x02]).flatten ++ [0x6D])

theorem witness_ValidateStagesGoals :
    controlReceived.coreIn .validate ∧ after (step controlReceived) (fun t => t.seq.phase == .write) = true :=
  ⟨⟨rfl, rfl⟩, by decide +kernel⟩

theorem witness_WriteStepWritesOneGoal :
    ((inPhase .write 0).coreIn .write ∧ (inPhase .write 0).seq.k.toNat = (0 : Fin 12).val) ∧
      (inPhase .write 11).coreIn .write ∧ (inPhase .write 11).seq.k.toNat = (11 : Fin 12).val :=
  ⟨⟨⟨rfl, rfl⟩, rfl⟩, ⟨rfl, rfl⟩, rfl⟩

/-- Each clause of GatherStepReadsOneField at both ends of its range: 0 and 11, 12 and 23, 24 and 28. -/
theorem witness_GatherStepReadsOneField :
    (∀ k, (inPhase .gather k).coreIn .gather) ∧
      ((inPhase .gather 0).seq.k.toNat = (0 : Fin 12).val ∧ (inPhase .gather 11).seq.k.toNat = (11 : Fin 12).val) ∧
      ((inPhase .gather 12).seq.k.toNat = 12 + (0 : Fin 12).val ∧ (inPhase .gather 23).seq.k.toNat = 12 + (11 : Fin 12).val) ∧
      ((inPhase .gather 24).seq.k.toNat = 24 + (0 : Fin 5).val ∧ (inPhase .gather 28).seq.k.toNat = 24 + (4 : Fin 5).val) :=
  ⟨fun _ => ⟨rfl, rfl⟩, ⟨rfl, rfl⟩, ⟨rfl, rfl⟩, ⟨rfl, rfl⟩⟩

theorem witness_SealStepCompletesReply : (inPhase .seal 28).coreIn .seal ∧ (inPhase .seal 28).txBuf.wf = true := ⟨⟨rfl, rfl⟩, rfl⟩

/-- The transmit sink refuses. -/
def stalled (s : State) : State := { s with env := { s.env with txReady := false } }

theorem witness_EmitStepSendsOneByte : ∀ k ∈ [(0 : Fin 74), 73],
    (inPhase .emit (BitVec.ofNat 7 k.val)).coreIn .emit ∧ (inPhase .emit (BitVec.ofNat 7 k.val)).seq.k.toNat = k.val ∧
      (inPhase .emit (BitVec.ofNat 7 k.val)).env.txReady = true ∧
      (stalled (inPhase .emit (BitVec.ofNat 7 k.val))).coreIn .emit ∧
      (stalled (inPhase .emit (BitVec.ofNat 7 k.val))).env.txReady = false := by
  intro k hk
  have : k = 0 ∨ k = 73 := by simpa using hk
  rcases this with rfl | rfl <;> exact ⟨⟨rfl, rfl⟩, rfl, rfl, ⟨rfl, rfl⟩, rfl⟩

/-- V-REP-8's stall at EMIT 5, with a byte offered, a timeout and a port-B write in its turns, then the core for ever. -/
theorem witness_TransmitHang :
    let s := withTurns [.offerByte 0xFF, .timeout, .bus ⟨true, 0x5B, 9⟩] .quiet (stalled (inPhase .emit 5))
    s.seq.phase = .emit ∧ s.seq.k.toNat < 74 ∧ s.env.txReady = false ∧
      ∀ m, m < 5 → s.env.turnAt m ≠ .setTxReady true ∧ s.env.turnAt m ≠ .reset :=
  ⟨rfl, by decide, rfl, by decide⟩

theorem clear_inv : (inPhase .clear 73).Inv := by constructor <;> decide

theorem witness_ClearStepEmitsOutcome : (inPhase .clear 73).Inv ∧ (inPhase .clear 73).coreIn .clear := ⟨clear_inv, rfl, rfl⟩

theorem witness_TransactionSendsOneReply : ∀ p ∈ [Phase.write, .gather],
    (inPhase p 0).alone ∧ (inPhase p 0).env.txReady = true ∧ (inPhase p 0).txBuf.wf = true ∧ (inPhase p 0).seq.k = 0 ∧
      (inPhase p 0).seq.outcome = some .controlApplied ∧
      ((inPhase p 0).seq.phase = .write ∨ (inPhase p 0).seq.phase = .gather) := by
  intro p hp
  have : p = .write ∨ p = .gather := by simpa using hp
  exact ⟨⟨rfl, rfl⟩, rfl, rfl, rfl, rfl, this⟩

/-- The three causes of FailedTransactionSendsNothing: a bad checksum, an unknown instruction, `INST_CONTROL` with `L = 2`. -/
theorem witness_FailedTransactionSendsNothing :
    ∀ s ∈ [corrupted, received, base.withFrame [0xFF, 0xFF, 0x01, 0x02, 0x01, 0xFB]],
      s.alone ∧ s.seq.phase = .validate ∧ 2 ≤ s.dec.lenReg.toNat ∧ s.dec.lenReg.toNat + 4 ≤ s.params.cap ∧
        s.dec.lenReg ≠ 26 := by
  intro s hs
  have : s = corrupted ∨ s = received ∨ s = base.withFrame [0xFF, 0xFF, 0x01, 0x02, 0x01, 0xFB] := by simpa using hs
  rcases this with rfl | rfl | rfl <;> exact ⟨⟨rfl, rfl⟩, rfl, by decide, by decide, by decide⟩

/-- The frame of V-DIS-2 offered whole, with a byte behind it. -/
def controlOffered : State := offering .awaitSync1 (encode (.instControl (.goals goalsMixed)) ++ [0x55])

/-- ControlRoundTrip under CLAMP with goals out of range; its other way is REJECT with every goal in range. -/
theorem witness_ControlRoundTrip :
    controlOffered.alone ∧ controlOffered.seq.phase = .idle ∧ controlOffered.dec.state = .awaitSync1 ∧
      controlOffered.rxBuf.wf = true ∧ controlOffered.params.wf = true ∧ controlOffered.env.adminEnable = true ∧
      controlOffered.params.policy = .clamp ∧
      controlOffered.env.rxLine = encode (.instControl (.goals goalsMixed)) ++ [0x55] ∧
      (rejecting controlOffered).params.policy = .reject ∧ ∀ k : Fin 12, goals512[k] ≤ 1023 :=
  ⟨⟨rfl, rfl⟩, rfl, rfl, rfl, rfl, rfl, rfl, rfl, rfl, by decide⟩

theorem witness_InvariantKept : ∃ t, (inPhase .write 11).Inv ∧ step (inPhase .write 11) = .next t := ⟨_, inPhase_inv, rfl⟩

theorem received_tracked : received.FrameTracked := ⟨by decide, by decide⟩

theorem witness_TrackingKept : ∃ t, received.Inv ∧ received.FrameTracked ∧ step received = .next t :=
  ⟨_, received_inv, received_tracked, rfl⟩

theorem witness_InvariantStepsNeverStop : base.Inv := base_inv

theorem witness_RunningSumAgreesWithVerify : received.Inv ∧ received.FrameTracked ∧ received.dec.state = .done :=
  ⟨received_inv, received_tracked, rfl⟩

/-- The three ways of PhaseMovesAlongEdges. -/
theorem witness_PhaseMovesAlongEdges : ∀ s ∈ [inPhase .seal 28, onTurn .reset (inPhase .seal 28),
    onTurn .timeout (accumulating 2 1 [0xF7])],
    ∃ t, step s = .next t ∧ t.seq.phase ≠ s.seq.phase := by
  intro s hs
  have : s = inPhase .seal 28 ∨ s = onTurn .reset (inPhase .seal 28) ∨ s = onTurn .timeout (accumulating 2 1 [0xF7]) := by
    simpa using hs
  rcases this with rfl | rfl | rfl <;> exact ⟨_, rfl, by decide⟩

/-- A telemetry write and a WRITE step, each a change of its field. -/
theorem witness_SingleWriterPerField :
    (∃ t, step (onTurn (.bus ⟨true, 0x5B, 9⟩) base) = .next t ∧ (onTurn (.bus ⟨true, 0x5B, 9⟩) base).nextTurn ≠ .reset ∧
        t.reg[11].presentPosition ≠ base.reg[11].presentPosition) ∧
      ∃ t, step (inPhase .write 11) = .next t ∧ (inPhase .write 11).nextTurn ≠ .reset ∧
        t.reg[11].goalPosition ≠ base.reg[11].goalPosition :=
  ⟨⟨_, rfl, by decide, by decide⟩, ⟨_, rfl, by decide, by decide⟩⟩

/-- PortBAccess at record 11: each listed field has its two turns; and the two ends of the hole. -/
theorem witness_PortBAccess :
    (∀ we : Bool, ∀ f ∈ List.range 8,
      (onTurn (.bus ⟨we, BitVec.ofNat 7 (8 * (11 : Fin 12).val + f), 9⟩) base).nextTurn
        = .bus ⟨we, BitVec.ofNat 7 (8 * (11 : Fin 12).val + f), 9⟩) ∧
      ∀ we : Bool, ∀ a ∈ [(0x60 : BitVec 7), 0x7F],
        0x60 ≤ a ∧ (onTurn (.bus ⟨we, a, 9⟩) base).nextTurn = .bus ⟨we, a, 9⟩ :=
  ⟨fun _ _ _ => rfl, fun _ a h => ⟨by revert a; decide, rfl⟩⟩

theorem witness_DoneHoldsFrame : ∃ t, step (inPhase .write 3) = .next t ∧ (inPhase .write 3).seq.phase ≠ .idle ∧
    (inPhase .write 3).nextTurn ≠ .reset ∧ ¬ (inPhase .write 3).coreIn .clear :=
  ⟨_, rfl, by decide, by decide, fun h => nomatch h.2⟩

/-- A step that emits, and one that does not. -/
theorem witness_OneOutcomePerStep :
    (∃ t, step (offering .awaitId [0x02]) = .next t ∧ t.evt ≠ none) ∧ ∃ t, step base = .next t ∧ t.evt = none :=
  ⟨⟨_, rfl, by decide⟩, ⟨_, rfl, rfl⟩⟩

theorem awaitId_inv : (offering .awaitId [0x02]).Inv := by constructor <;> decide

/-- Both origins of an outcome. -/
theorem witness_OutcomesByOrigin :
    (∃ t e, (offering .awaitId [0x02]).Inv ∧ step (offering .awaitId [0x02]) = .next t ∧ t.evt = some e) ∧
      ∃ t e, (inPhase .clear 73).Inv ∧ step (inPhase .clear 73) = .next t ∧ t.evt = some e :=
  ⟨⟨_, _, awaitId_inv, rfl, rfl⟩, ⟨_, _, clear_inv, rfl, rfl⟩⟩

theorem witness_OnlyEmitSends : ∃ t, step (inPhase .emit 73) = .next t ∧ t.sent ≠ (inPhase .emit 73).sent :=
  ⟨_, rfl, by decide⟩

theorem witness_EnvironmentTurns : (onTurn (.offerByte 0x12) base).nextTurn = .offerByte 0x12 ∧
    (onTurn (.setTxReady false) base).nextTurn = .setTxReady false ∧
    (onTurn (.setAdminEnable false) base).nextTurn = .setAdminEnable false ∧
    (onTurn (.fixSensor 0x3FC00000) base).nextTurn = .fixSensor 0x3FC00000 := ⟨rfl, rfl, rfl, rfl⟩

/-- StepsFollowSchedule: a step that uses a turn of the script, and one that uses a turn of the later schedule. -/
theorem witness_StepsFollowSchedule :
    (∃ t, step (onTurn .timeout base) = .next t) ∧
      ∃ t, step (withTurns [] (.cycle .timeout [.core]) base) = .next t ∧ t.env.later = .cycle .core [.timeout] :=
  ⟨⟨_, rfl⟩, _, rfl, rfl⟩

/-- The receive source offers the bytes of a cycle one after the other, without end (R242). -/
theorem test_cycle_offers : (withTurns [] (.cycle (.offerByte 0x12) [.offerByte 0x34]) base).env.offeredIn 5
    = [0x12, 0x34, 0x12, 0x34, 0x12] := by decide

end Sys2Proof.Tests
end

section
/-! PROOFS. The family of 10_state.md: reset (R49), the invariants of R50 and R102, and who writes what (R37, R41). -/

namespace Sys2Proof.Machine

/-! ### Reset (R49, R260, R261) -/

/-- The machine starts as a reset leaves it, with draws 0 to 35 used up by that reset (log 6). -/
theorem reset_eq_afterRst : { State.reset with draws := 0 }.afterRst = State.reset := rfl

/-- On port B every record's field 0 reads as its hard-wired id (R31). -/
theorem busRead_id (s : State) (k : Fin 12) : s.busRead (BitVec.ofNat 7 (8 * k.val)) = BitVec.ofNat 16 (k.val + 1) := by
  have hindex : busIndex (BitVec.ofNat 7 (8 * k.val)) = k.val := busIndex_addr k (f := 0) (by decide)
  have hfield : busField (BitVec.ofNat 7 (8 * k.val)) = 0 := busField_addr k (f := 0) (by decide)
  have hid : ∀ k : Fin 12, (servoId k).setWidth 16 = BitVec.ofNat 16 (k.val + 1) := by decide
  rw [busRead_record k hindex, hfield]
  exact hid k

/-- A record after a reset. -/
theorem afterRst_getElem (s : State) (k : Fin 12) : s.afterRst.reg[k] = Servo.reset s.params s.draws k :=
  tabulate12_getElem _ k.val k.isLt

theorem afterRst_atReset (s : State) : s.afterRst.AtReset s.draws where
  dec := rfl
  phase := rfl
  index := rfl
  outcome := rfl
  arg := rfl
  goals k := by rw [afterRst_getElem]; rfl
  torque k := by rw [afterRst_getElem]; rfl
  position k := by rw [afterRst_getElem]; rfl
  velocity k := by rw [afterRst_getElem]; rfl
  load k := by rw [afterRst_getElem]; rfl
  rxReady := rfl
  txValid := rfl
  evtValid := rfl
  ids := busRead_id _

/-- Settles O1: a reset turn runs `afterRst`, and the machine starts from such a state. -/
theorem resetLeavesSpecValues : Obligations.ResetLeavesSpecValues := by
  unfold Obligations.ResetLeavesSpecValues
  constructor
  · intro s h
    exact ⟨_, step_of_turn h, afterRst_atReset s.beginStep⟩
  · rw [← reset_eq_afterRst]
    exact afterRst_atReset { State.reset with draws := 0 }

/-- Settles O51: each enumeration, listed in the spec's order, evaluates to its numbers. -/
theorem registerEncodings : Obligations.RegisterEncodings := by
  unfold Obligations.RegisterEncodings
  exact ⟨rfl, rfl, rfl⟩

/-! ### Frames of the phase steps: the decoder session, the register map and the bytes sent -/

section Frames

variable {s t : State}

theorem idleStep_frame (h : idleStep s = .next t) : t.reg = s.reg ∧ t.sent = s.sent := by
  rcases idleStep_cases h with rfl | ⟨b, rest, _, _, hb⟩
  · exact ⟨rfl, rfl⟩
  · obtain ⟨_, _, hreg, _, hsent, _⟩ := byteStep_frame hb
    exact ⟨hreg, hsent⟩

theorem timeoutStep_frame (h : timeoutStep s = .next t) : t.reg = s.reg ∧ t.sent = s.sent := by
  rcases timeoutStep_cases h with ⟨_, rfl⟩ | ⟨_, u, hu, rfl⟩
  · exact ⟨rfl, rfl⟩
  · obtain ⟨_, _, _, _, hreg, _, hsent⟩ := timeoutIfIdle_frame u
    rw [hreg, hsent]
    exact idleStep_frame hu

theorem validateStep_frame (h : validateStep s = .next t) :
    t.dec = s.dec ∧ t.rxBuf = s.rxBuf ∧ t.reg = s.reg ∧ t.sent = s.sent := by
  rcases validateStep_cases h with ⟨c, a, _, rfl⟩ | ⟨g, _, ⟨_, rfl⟩ | ⟨_, rfl⟩⟩ <;> exact ⟨rfl, rfl, rfl, rfl⟩

theorem writeStep_frame (h : writeStep s = .next t) :
    t.dec = s.dec ∧ t.rxBuf = s.rxBuf ∧ t.sent = s.sent ∧
      ∃ k : Fin 12, s.seq.k.toNat = k.val ∧ t.reg = (s.writeGoal k s.seq.goalStage[k]).reg := by
  obtain ⟨k, hk, ⟨_, rfl⟩ | ⟨_, rfl⟩⟩ := writeStep_cases h <;> exact ⟨rfl, rfl, rfl, k, hk, rfl⟩

theorem gatherStep_frame (h : gatherStep s = .next t) :
    t.dec = s.dec ∧ t.rxBuf = s.rxBuf ∧ t.reg = s.reg ∧ t.sent = s.sent := by
  obtain ⟨hk, ht⟩ := gatherStep_cases h
  obtain ⟨_, hdec, hrx, _, hreg, _, _, _, hsent⟩ := gatherField_frame s hk
  rcases ht with ⟨_, rfl⟩ | ⟨_, rfl⟩ <;> exact ⟨hdec, hrx, hreg, hsent⟩

theorem sealStep_frame (s : State) :
    (sealStep s).dec = s.dec ∧ (sealStep s).rxBuf = s.rxBuf ∧ (sealStep s).reg = s.reg ∧ (sealStep s).sent = s.sent :=
  ⟨rfl, rfl, rfl, rfl⟩

/-- EMIT sends one byte or, with `tx_ready = 0`, none (R196). -/
theorem emitStep_frame (h : emitStep s = .next t) :
    t.dec = s.dec ∧ t.rxBuf = s.rxBuf ∧ t.reg = s.reg ∧
      (t.sent = s.sent ∨ (s.env.txReady = true ∧ t.sent = s.sent ++ [s.txData])) := by
  obtain ⟨_, ⟨_, rfl⟩ | ⟨hr, _, rfl⟩ | ⟨hr, _, rfl⟩⟩ := emitStep_cases h
  · exact ⟨rfl, rfl, rfl, .inl rfl⟩
  · exact ⟨rfl, rfl, rfl, .inr ⟨hr, rfl⟩⟩
  · exact ⟨rfl, rfl, rfl, .inr ⟨hr, rfl⟩⟩

theorem clearStep_frame (s : State) :
    (clearStep s).dec = Decoder.reset ∧ (clearStep s).reg = s.reg ∧ (clearStep s).sent = s.sent := by
  cases ho : s.seq.outcome with
  | none => rw [clearStep_none ho]; exact ⟨rfl, rfl, rfl⟩
  | some c => rw [clearStep_some ho]; exact ⟨rfl, rfl, rfl⟩

/-! ### The transmit port (R41) -/

theorem coreStep_sent_cases (h : coreStep s = .next t) :
    t.sent = s.sent ∨ (s.seq.phase = .emit ∧ s.env.txReady = true ∧ t.sent = s.sent ++ [s.txData]) := by
  rcases coreStep_cases h with ⟨_, h⟩ | ⟨_, h⟩ | ⟨_, h⟩ | ⟨_, h⟩ | ⟨_, rfl⟩ | ⟨hp, h⟩ | ⟨_, rfl⟩
  · exact .inl (idleStep_frame h).2
  · obtain ⟨_, _, _, hsent⟩ := validateStep_frame h
    exact .inl hsent
  · obtain ⟨_, _, hsent, _⟩ := writeStep_frame h
    exact .inl hsent
  · obtain ⟨_, _, _, hsent⟩ := gatherStep_frame h
    exact .inl hsent
  · exact .inl rfl
  · obtain ⟨_, _, _, hsent⟩ := emitStep_frame h
    exact hsent.imp_right fun he => ⟨hp, he⟩
  · obtain ⟨_, _, hsent⟩ := clearStep_frame s
    exact .inl hsent

/-- Everything a step can do to the bytes sent: nothing, or one more byte from EMIT. -/
theorem step_sent_cases (h : step s = .next t) :
    t.sent = s.sent ∨ (s.coreIn .emit ∧ s.env.txReady = true ∧ t.sent = s.sent ++ [s.txData]) := by
  rcases step_cases h with
    ⟨hc, h⟩ | ⟨_, _, rfl⟩ | ⟨_, _, rfl⟩ | ⟨_, h⟩ | ⟨r, _, rfl⟩ | ⟨_, _, rfl⟩ | ⟨_, _, rfl⟩ | ⟨_, rfl⟩
  · exact (coreStep_sent_cases h).imp_right fun ⟨hp, hr, hsent⟩ => ⟨⟨hc, hp⟩, hr, hsent⟩
  · exact .inl rfl
  · exact .inl rfl
  · exact .inl (timeoutStep_frame h).2
  · obtain ⟨_, _, _, _, _, _, _, _, hsent⟩ := busAccess_frame s.beginStep r
    exact .inl hsent
  · exact .inl rfl
  · exact .inl rfl
  · exact .inl rfl

/-! ### The register map (R37) -/

theorem coreStep_reg_cases (h : coreStep s = .next t) :
    t.reg = s.reg ∨
      (s.seq.phase = .write ∧
        ∃ k : Fin 12, s.seq.k.toNat = k.val ∧ t.reg = (s.writeGoal k s.seq.goalStage[k]).reg) := by
  rcases coreStep_cases h with ⟨_, h⟩ | ⟨_, h⟩ | ⟨hp, h⟩ | ⟨_, h⟩ | ⟨_, rfl⟩ | ⟨_, h⟩ | ⟨_, rfl⟩
  · exact .inl (idleStep_frame h).1
  · obtain ⟨_, _, hreg, _⟩ := validateStep_frame h
    exact .inl hreg
  · obtain ⟨_, _, _, hreg⟩ := writeStep_frame h
    exact .inr ⟨hp, hreg⟩
  · obtain ⟨_, _, hreg, _⟩ := gatherStep_frame h
    exact .inl hreg
  · exact .inl rfl
  · obtain ⟨_, _, hreg, _⟩ := emitStep_frame h
    exact .inl hreg
  · obtain ⟨_, hreg, _⟩ := clearStep_frame s
    exact .inl hreg

/-- What a port-B access does to the register map: nothing, or a write of one field of the record its address names. -/
theorem busAccess_reg_cases (s : State) (r : BusRequest) :
    (s.busAccess r).reg = s.reg ∨
      ∃ j : Fin 12, r.we = true ∧ busIndex r.addr = j.val ∧
        (s.busAccess r).reg = (s.setServo j (writeField s.reg[j] r.wdata (busField r.addr))).reg := by
  rcases busAccess_cases s r with ⟨_, e⟩ | ⟨hw, e⟩
  · exact .inl (by rw [e])
  · rcases busWrite_cases s r.addr r.wdata with e' | ⟨j, hj, e'⟩
    · exact .inl (by rw [e, e'])
    · exact .inr ⟨j, hw, hj, by rw [e, e']⟩

/-- Everything a step can do to the register map: nothing, a WRITE of one goal, a port-B write, or a reset. -/
theorem step_reg_cases (h : step s = .next t) :
    t.reg = s.reg ∨
      (s.coreIn .write ∧ ∃ j : Fin 12, s.seq.k.toNat = j.val ∧ t.reg = (s.writeGoal j s.seq.goalStage[j]).reg) ∨
      (∃ (r : BusRequest) (j : Fin 12), s.nextTurn = .bus r ∧ r.we = true ∧ busIndex r.addr = j.val ∧
        t.reg = (s.setServo j (writeField s.reg[j] r.wdata (busField r.addr))).reg) ∨
      s.nextTurn = .reset := by
  rcases step_cases h with
    ⟨hc, h⟩ | ⟨_, _, rfl⟩ | ⟨_, _, rfl⟩ | ⟨_, h⟩ | ⟨r, hr, rfl⟩ | ⟨_, _, rfl⟩ | ⟨_, _, rfl⟩ | ⟨hr, rfl⟩
  · exact (coreStep_reg_cases h).imp_right fun ⟨hp, hw⟩ => .inl ⟨⟨hc, hp⟩, hw⟩
  · exact .inl rfl
  · exact .inl rfl
  · exact .inl (timeoutStep_frame h).1
  · exact (busAccess_reg_cases s.beginStep r).imp_right fun ⟨j, hw⟩ => .inr (.inl ⟨r, j, hr, hw⟩)
  · exact .inl rfl
  · exact .inl rfl
  · exact .inr (.inr (.inr hr))

/-- A record after a WRITE step. -/
theorem writeGoal_getElem (s : State) (j k : Fin 12) (v : Half) :
    (s.writeGoal j v).reg[k] = if j = k then { s.reg[j] with goalPosition := v } else s.reg[k] :=
  setServo_getElem s j k _

/-- A field that port A does not write and that port B writes under selector `f` alone changes only by a port-B write of
its new value to its own address. -/
theorem changed_telemetry_bus {p : Servo → Half} {f : Nat}
    (hgoal : ∀ (r : Servo) (v : Half), p { r with goalPosition := v } = p r)
    (hfield : ∀ (r : Servo) (v : Half) (x : Nat), p (writeField r v x) = if x = f then v else p r)
    (h : step s = .next t) (hr : s.nextTurn ≠ .reset) (k : Fin 12) (hne : p t.reg[k] ≠ p s.reg[k]) :
    s.nextTurn = .bus ⟨true, BitVec.ofNat 7 (8 * k.val + f), p t.reg[k]⟩ := by
  rcases step_reg_cases h with e | ⟨_, j, _, e⟩ | ⟨⟨we, addr, v⟩, j, hb, hw, hj, e⟩ | e
  · exact absurd (by rw [e]) hne
  · refine absurd ?_ hne
    rw [e, writeGoal_getElem]
    split
    · subst j; exact hgoal _ _
    · rfl
  · simp only at hw hj e
    rw [e, setServo_getElem] at hne ⊢
    by_cases hjk : j = k
    · subst hjk
      rw [if_pos rfl, hfield] at hne ⊢
      by_cases hf : busField addr = f
      · rw [if_pos hf, hb, hw, addr_of_index_field addr, hj, hf]
      · exact absurd (if_neg hf) hne
    · exact absurd (by rw [if_neg hjk]) hne
  · exact absurd e hr

theorem writeField_presentPosition (r : Servo) (v : Half) (f : Nat) :
    (writeField r v f).presentPosition = if f = 3 then v else r.presentPosition := by
  unfold writeField; split <;> simp_all

theorem writeField_presentVelocity (r : Servo) (v : Half) (f : Nat) :
    (writeField r v f).presentVelocity = if f = 4 then v else r.presentVelocity := by
  unfold writeField; split <;> simp_all

theorem writeField_presentLoad (r : Servo) (v : Half) (f : Nat) :
    (writeField r v f).presentLoad = if f = 5 then v else r.presentLoad := by
  unfold writeField; split <;> simp_all

theorem step_torqueSwitch (h : step s = .next t) (hr : s.nextTurn ≠ .reset) (k : Fin 12) :
    t.reg[k].torqueSwitch = s.reg[k].torqueSwitch := by
  rcases step_reg_cases h with e | ⟨_, j, _, e⟩ | ⟨_, j, _, _, _, e⟩ | e
  · rw [e]
  · rw [e, writeGoal_getElem]
    split
    · subst j; rfl
    · rfl
  · rw [e, setServo_getElem]
    split
    · subst j; exact writeField_torqueSwitch _ _ _
    · rfl
  · exact absurd e hr

theorem changed_goal_write (h : step s = .next t) (hr : s.nextTurn ≠ .reset) (k : Fin 12)
    (hne : t.reg[k].goalPosition ≠ s.reg[k].goalPosition) :
    s.coreIn .write ∧ s.seq.k.toNat = k.val ∧ t.reg[k].goalPosition = s.seq.goalStage[k] := by
  rcases step_reg_cases h with e | ⟨hc, j, hj, e⟩ | ⟨_, j, _, _, _, e⟩ | e
  · exact absurd (by rw [e]) hne
  · rw [e, writeGoal_getElem] at hne ⊢
    by_cases hjk : j = k
    · subst hjk; exact ⟨hc, hj, by rw [if_pos rfl]⟩
    · exact absurd (by rw [if_neg hjk]) hne
  · refine absurd ?_ hne
    rw [e, setServo_getElem]
    split
    · subst j; exact writeField_goalPosition _ _ _
    · rfl
  · exact absurd e hr

/-! ### The decoder session (R26, R102) -/

theorem coreStep_session_cases (h : coreStep s = .next t) :
    (s.seq.phase = .idle ∧ idleStep s = .next t) ∨ (t.dec = s.dec ∧ t.rxBuf = s.rxBuf) ∨ t.dec = Decoder.reset := by
  rcases coreStep_cases h with h | ⟨_, h⟩ | ⟨_, h⟩ | ⟨_, h⟩ | ⟨_, rfl⟩ | ⟨_, h⟩ | ⟨_, rfl⟩
  · exact .inl h
  · obtain ⟨hdec, hrx, _⟩ := validateStep_frame h
    exact .inr (.inl ⟨hdec, hrx⟩)
  · obtain ⟨hdec, hrx, _⟩ := writeStep_frame h
    exact .inr (.inl ⟨hdec, hrx⟩)
  · obtain ⟨hdec, hrx, _⟩ := gatherStep_frame h
    exact .inr (.inl ⟨hdec, hrx⟩)
  · exact .inr (.inl ⟨rfl, rfl⟩)
  · obtain ⟨hdec, hrx, _⟩ := emitStep_frame h
    exact .inr (.inl ⟨hdec, hrx⟩)
  · exact .inr (.inr (clearStep_frame s).1)

/-- A timeout leaves the session or ends it. -/
theorem timeoutIfIdle_session (s : State) :
    ((timeoutIfIdle s).dec = s.dec ∧ (timeoutIfIdle s).rxBuf = s.rxBuf) ∨ (timeoutIfIdle s).dec = Decoder.reset := by
  rcases timeoutIfIdle_cases s with e | ⟨_, _, e | ⟨a, e⟩⟩
  · exact .inl ⟨by rw [e], by rw [e]⟩
  · exact .inr (by rw [e]; rfl)
  · exact .inr (by rw [e]; rfl)

/-- Everything a step can do to the decoder session: an idle step of the core, perhaps with a timeout after it; nothing;
or its end. -/
theorem step_session_cases (h : step s = .next t) :
    (∃ u, s.seq.phase = .idle ∧ idleStep s.beginStep = .next u ∧ (t = u ∨ t = timeoutIfIdle u)) ∨
      (t.dec = s.dec ∧ t.rxBuf = s.rxBuf) ∨ t.dec = Decoder.reset := by
  rcases step_cases h with
    ⟨_, h⟩ | ⟨_, _, rfl⟩ | ⟨_, _, rfl⟩ | ⟨_, h⟩ | ⟨r, _, rfl⟩ | ⟨_, _, rfl⟩ | ⟨_, _, rfl⟩ | ⟨_, rfl⟩
  · exact (coreStep_session_cases h).imp_left fun ⟨hp, hi⟩ => ⟨t, hp, hi, .inl rfl⟩
  · exact .inr (.inl ⟨rfl, rfl⟩)
  · exact .inr (.inl ⟨rfl, rfl⟩)
  · rcases timeoutStep_cases h with ⟨_, rfl⟩ | ⟨hp, u, hu, rfl⟩
    · exact .inr (.inl ⟨rfl, rfl⟩)
    · exact .inl ⟨u, hp, hu, .inr rfl⟩
  · obtain ⟨_, hdec, hrx, _⟩ := busAccess_frame s.beginStep r
    exact .inr (.inl ⟨hdec, hrx⟩)
  · exact .inr (.inl ⟨rfl, rfl⟩)
  · exact .inr (.inl ⟨rfl, rfl⟩)
  · exact .inr (.inr rfl)

end Frames

/-- Settles O50: of all a step can do to the bytes sent, only EMIT's send changes them. -/
theorem onlyEmitSends : Obligations.OnlyEmitSends := by
  unfold Obligations.OnlyEmitSends
  intro s t h hne
  exact (step_sent_cases h).resolve_left hne

/-- Settles O45, field by field, from everything a step can do to the register map. -/
theorem singleWriterPerField : Obligations.SingleWriterPerField := by
  unfold Obligations.SingleWriterPerField
  intro s t k h hr
  exact ⟨step_torqueSwitch h hr k, changed_goal_write h hr k,
    changed_telemetry_bus (fun _ _ => rfl) writeField_presentPosition h hr k,
    changed_telemetry_bus (fun _ _ => rfl) writeField_presentVelocity h hr k,
    changed_telemetry_bus (fun _ _ => rfl) writeField_presentLoad h hr k⟩

/-! ### The invariant, one rule per state operation (R50) -/

section Invariant

variable {s t : State}

theorem State.Inv.capRange (i : s.Inv) : 30 ≤ s.params.cap ∧ s.params.cap ≤ 259 := of_decide_eq_true i.params

theorem State.Inv.done_of_busy (i : s.Inv) (h : s.seq.phase ≠ .idle) : s.dec.state = .done :=
  not_not.mp fun hd => h (i.idleIff.mpr hd)

/-- The invariant after `resync()` in IDLE, or any other decoder session that has no accepted length yet. -/
theorem State.Inv.withHeader (i : s.Inv) (hp : s.seq.phase = .idle) {d : Decoder}
    (hacc : d.state ≠ .accumulatePayload) (hdone : d.state ≠ .done) (hcount : d.count.toNat ≤ d.lenReg.toNat) :
    { s with dec := d }.Inv :=
  { i with
    idleIff := iff_of_true hp hdone
    lengthRange := fun h => absurd h (not_or.mpr ⟨hacc, hdone⟩)
    countLe := hcount
    countLt := fun h => absurd h hacc }

theorem State.Inv.resync (i : s.Inv) (hp : s.seq.phase = .idle) : s.resync.Inv :=
  i.withHeader hp (by decide) (by decide) (by decide)

theorem State.Inv.rejectFrame (i : s.Inv) (hp : s.seq.phase = .idle) (c : OutcomeCode) (a : Byte) :
    (s.rejectFrame c a).Inv := (i.resync hp).congr rfl rfl rfl rfl rfl rfl

/-- The invariant after a move of the sequencer within a transaction. -/
theorem State.Inv.withSeq (i : s.Inv) (hb : s.seq.phase ≠ .idle) {q : Sequencer} (hp : q.phase ≠ .idle)
    (hstage : q.phase = .write → ∀ k : Fin 12, q.goalStage[k] ≤ Config.goalMax)
    (hindex : indexSuits q.phase q.k.toNat = true) (hout : outcomeSuits q.phase q.outcome = true) :
    { s with seq := q }.Inv :=
  { i with
    idleIff := iff_of_false hp (not_not.mpr (i.done_of_busy hb))
    stageRange := hstage
    indexRange := hindex
    outcomeSet := hout }

theorem State.Inv.writeRx (i : s.Inv) {a : Nat} (b : Byte) (h : a < s.params.cap) : (s.writeRx a b).Inv :=
  { i with
    rxCanonical := Memory.wf_write a b i.rxCanonical
    rxBound := Memory.below_write b i.rxBound h }

theorem State.Inv.storeTx (i : s.Inv) {a : Nat} {bs : List Byte} (h : a + bs.length ≤ Config.replyBytes) :
    (s.storeTx a bs).Inv :=
  { i with
    txCanonical := Memory.wf_storeBytes a bs i.txCanonical
    txBound := Memory.below_storeBytes bs i.txBound h }

theorem State.Inv.setServo (i : s.Inv) (k : Fin 12) {v : Servo} (h : v.goalPosition ≤ Config.goalMax) :
    (s.setServo k v).Inv :=
  { i with
    goalRange := fun j => by
      rw [setServo_getElem]
      split
      · exact h
      · exact i.goalRange j }

/-- A reset meets the invariant whatever the block held: only the parameters stay. -/
theorem inv_afterRst (h : s.params.wf = true) : s.afterRst.Inv where
  params := h
  rxCanonical := rfl
  rxBound := rfl
  txCanonical := rfl
  txBound := rfl
  idleIff := iff_of_true rfl (by simp [Decoder.reset])
  lengthRange := by simp [Decoder.reset]
  countLe := Nat.le_refl _
  countLt := by simp [Decoder.reset]
  goalRange k := by
    have hreset : Config.goalReset ≤ Config.goalMax := by decide
    rw [afterRst_getElem]
    exact hreset
  stageRange := by simp [Sequencer.reset]
  indexRange := rfl
  outcomeSet := rfl

/-! ### Every step keeps the invariant -/

theorem State.Inv.takeLength (i : s.Inv) (hp : s.seq.phase = .idle) {b : Byte} (h2 : 2 ≤ b.toNat)
    (hcap : b.toNat + 4 ≤ s.params.cap) : (s.takeLength b).Inv :=
  { i.writeRx (a := 3) b (by omega) with
    idleIff := iff_of_true hp (by simp)
    lengthRange := fun _ => ⟨h2, hcap⟩
    countLe := Nat.zero_le _
    countLt := fun _ => Nat.zero_lt_two.trans_le h2 }

/-- The count of body bytes grows without wrapping (R128). -/
theorem State.Inv.count_succ (i : s.Inv) (h : s.dec.state = .accumulatePayload) :
    (s.dec.count + 1).toNat = s.dec.count.toNat + 1 := by
  have := i.countLt h
  have := s.dec.lenReg.isLt
  bv_omega

theorem byteAccumulate_inv {b : Byte} (i : s.Inv) (hs : s.dec.state = .accumulatePayload)
    (h : byteAccumulate b s = .next t) : t.Inv := by
  have hp : s.seq.phase = .idle := i.idleIff.mpr (by simp [hs])
  have hlen := i.lengthRange (.inl hs)
  have hlt := i.countLt hs
  have hsucc := i.count_succ hs
  obtain ⟨hcap, ⟨he, rfl⟩ | ⟨hne, rfl⟩⟩ := byteAccumulate_cases h
  · exact { i.writeRx b hcap with
      idleIff := iff_of_false (by simp) (by simp)
      lengthRange := fun _ => hlen
      countLe := hsucc.trans_le hlt
      countLt := by simp
      stageRange := by simp
      indexRange := rfl
      outcomeSet := by simpa [outcomeSuits, hp] using i.outcomeSet }
  · have hne' : (s.dec.count + 1).toNat ≠ s.dec.lenReg.toNat := fun h => hne (BitVec.eq_of_toNat_eq h)
    have hlt' : (s.dec.count + 1).toNat < s.dec.lenReg.toNat := by omega
    exact { i.writeRx b hcap with
      countLe := hlt'.le
      countLt := fun _ => hlt' }

theorem byteStep_inv {b : Byte} (i : s.Inv) (hd : s.dec.state ≠ .done) (h : byteStep b s = .next t) : t.Inv := by
  have hp : s.seq.phase = .idle := i.idleIff.mpr hd
  obtain ⟨hcap, _⟩ := i.capRange
  rcases byteStep_cases h with ⟨_, rfl⟩ | ⟨_, rfl⟩ | ⟨_, rfl⟩ | ⟨_, rfl⟩ | ⟨hs, h⟩ | ⟨hs, _⟩
  · rcases byteAwaitSync1_cases b s with ⟨_, e⟩ | ⟨_, e⟩ <;> rw [e]
    · exact (i.writeRx _ (by omega)).withHeader hp (by simp) (by simp) i.countLe
    · exact i
  · rcases byteAwaitSync2_cases b s with ⟨_, e⟩ | ⟨_, e⟩ <;> rw [e]
    · exact (i.writeRx _ (by omega)).withHeader hp (by simp) (by simp) i.countLe
    · exact i.resync hp
  · rcases byteAwaitId_cases b s with ⟨_, e⟩ | ⟨_, e⟩ <;> rw [e]
    · exact (i.writeRx (a := 2) b (by omega)).rejectFrame hp .headerRejectedId b
    · exact (i.writeRx (a := 2) b (by omega)).withHeader hp (by simp) (by simp) i.countLe
  · rcases byteAwaitLength_cases b s with ⟨_, e⟩ | ⟨_, e⟩ | ⟨h2, hl, e⟩ <;> rw [e]
    · exact i.rejectFrame hp _ _
    · exact i.rejectFrame hp _ _
    · exact i.takeLength hp h2 hl
  · exact byteAccumulate_inv i hs h
  · exact absurd hs hd

theorem idleStep_inv (i : s.Inv) (h : idleStep s = .next t) : t.Inv := by
  rcases idleStep_cases h with rfl | ⟨b, rest, _, hd, hb⟩
  · exact i
  · exact byteStep_inv (s := s.popRx) (i.congr rfl rfl rfl rfl rfl rfl) hd hb

theorem timeoutIfIdle_inv (i : s.Inv) : (timeoutIfIdle s).Inv := by
  rcases timeoutIfIdle_cases s with e | ⟨_, hp, e | ⟨a, e⟩⟩ <;> rw [e]
  · exact i
  · exact i.resync hp
  · exact i.rejectFrame hp _ _

theorem timeoutStep_inv (i : s.Inv) (h : timeoutStep s = .next t) : t.Inv := by
  rcases timeoutStep_cases h with ⟨_, rfl⟩ | ⟨_, u, hu, rfl⟩
  · exact i
  · exact timeoutIfIdle_inv (idleStep_inv i hu)

theorem validateStep_inv (i : s.Inv) (hp : s.seq.phase = .validate) (h : validateStep s = .next t) : t.Inv := by
  have hb : s.seq.phase ≠ .idle := by simp [hp]
  rcases validateStep_cases h with ⟨c, a, hc, rfl⟩ | ⟨g, _, ⟨_, rfl⟩ | ⟨_, rfl⟩⟩
  · exact i.withSeq hb (by simp) (by simp) rfl hc
  · exact i.withSeq hb (by simp) (fun _ k => by simpa [clampGoals_getElem] using clampGoal_le g[k]) rfl rfl
  · exact i.withSeq hb (by simp) (by simp) rfl rfl

theorem writeStep_inv (i : s.Inv) (hp : s.seq.phase = .write) (h : writeStep s = .next t) : t.Inv := by
  have hstage := i.stageRange hp
  have hout := i.outcomeSet
  rw [hp] at hout
  obtain ⟨k, hk, ht⟩ := writeStep_cases h
  have iw : (s.writeGoal k s.seq.goalStage[k]).Inv := i.setServo k (hstage k)
  have hb : (s.writeGoal k s.seq.goalStage[k]).seq.phase ≠ .idle := by simp [hp]
  rcases ht with ⟨hlt, rfl⟩ | ⟨_, rfl⟩
  · have hk' : (s.seq.k + 1).toNat < 12 := by bv_omega
    exact iw.withSeq hb hb (fun _ => hstage) (by simpa [indexSuits, hp] using hk') (by simpa [hp] using hout)
  · exact iw.withSeq hb (by simp) (by simp) rfl hout

theorem gatherStep_inv (i : s.Inv) (hp : s.seq.phase = .gather) (h : gatherStep s = .next t) : t.Inv := by
  have hout := i.outcomeSet
  rw [hp] at hout
  obtain ⟨hk, ht⟩ := gatherStep_cases h
  obtain ⟨_, _, _, hseq, _⟩ := gatherField_frame s hk
  have ig : (gatherField s).Inv := by
    obtain ⟨a, bs, _, hle, e | e⟩ := gatherField_cases s hk <;> rw [e]
    · exact i.storeTx (hle.trans (by decide))
    · exact (i.storeTx (hle.trans (by decide))).congr rfl rfl rfl rfl rfl rfl
  have hb : (gatherField s).seq.phase ≠ .idle := by simp [hseq, hp]
  rcases ht with ⟨hlt, rfl⟩ | ⟨_, rfl⟩
  · have hk' : (s.seq.k + 1).toNat < 29 := by bv_omega
    exact ig.withSeq hb hb (by simp [hseq, hp]) (by simpa [indexSuits, hseq, hp] using hk')
      (by simpa [hseq, hp] using hout)
  · exact ig.withSeq hb (by simp) (by simp) rfl (by simpa [hseq, outcomeSuits] using hout)

theorem sealStep_inv (i : s.Inv) (hp : s.seq.phase = .seal) : (sealStep s).Inv := by
  have hout := i.outcomeSet
  rw [hp] at hout
  have it := (i.storeTx (a := 0) (bs := replyHeader) (by decide)).storeTx (a := 73)
    (bs := [compute ((s.storeTx 0 replyHeader).txBuf.slice 2 71)]) (by simp)
  exact it.withSeq (by simp [hp]) (by simp) (by simp) rfl hout

theorem emitStep_inv (i : s.Inv) (hp : s.seq.phase = .emit) (h : emitStep s = .next t) : t.Inv := by
  have hout := i.outcomeSet
  rw [hp] at hout
  have hsend : (s.send s.txData).Inv := i.congr rfl rfl rfl rfl rfl rfl
  have hb : s.seq.phase ≠ .idle := by simp [hp]
  obtain ⟨_, ⟨_, rfl⟩ | ⟨_, hlt, rfl⟩ | ⟨_, _, rfl⟩⟩ := emitStep_cases h
  · exact i
  · have hk' : (s.seq.k + 1).toNat < 74 := by bv_omega
    exact hsend.withSeq hb hb (by simp [hp]) (by simpa [indexSuits, hp] using hk') (by simpa [hp] using hout)
  · exact hsend.withSeq hb (by simp) (by simp) rfl (by
      rcases of_decide_eq_true hout with ho | ho <;> simp [ho, outcomeSuits, transactionOutcome])

/-- CLEAR leaves the decoder session and the sequencer as reset does, so every clause about them starts again. -/
theorem clearStep_inv (i : s.Inv) : (clearStep s).Inv := by
  have ic : { s with
      dec := Decoder.reset
      seq := { s.seq with phase := .idle, k := 0, outcome := none, arg := 0 } }.Inv :=
    { i with
      idleIff := iff_of_true rfl (by simp [Decoder.reset])
      lengthRange := by simp [Decoder.reset]
      countLe := Nat.le_refl _
      countLt := by simp [Decoder.reset]
      stageRange := by simp
      indexRange := rfl
      outcomeSet := rfl }
  cases ho : s.seq.outcome with
  | none => rw [clearStep_none ho]; exact ic
  | some c => rw [clearStep_some ho]; exact ic.congr rfl rfl rfl rfl rfl rfl

theorem coreStep_inv (i : s.Inv) (h : coreStep s = .next t) : t.Inv := by
  rcases coreStep_cases h with ⟨_, h⟩ | ⟨hp, h⟩ | ⟨hp, h⟩ | ⟨hp, h⟩ | ⟨hp, rfl⟩ | ⟨hp, h⟩ | ⟨_, rfl⟩
  · exact idleStep_inv i h
  · exact validateStep_inv i hp h
  · exact writeStep_inv i hp h
  · exact gatherStep_inv i hp h
  · exact sealStep_inv i hp
  · exact emitStep_inv i hp h
  · exact clearStep_inv i

/-- Port B keeps the invariant: it leaves every goal alone (R65). -/
theorem State.Inv.busAccess (i : s.Inv) (r : BusRequest) : (s.busAccess r).Inv := by
  rcases busAccess_cases s r with ⟨_, e⟩ | ⟨_, e⟩
  · rw [e]; exact i.congr rfl rfl rfl rfl rfl rfl
  · rcases busWrite_cases s r.addr r.wdata with e' | ⟨k, _, e'⟩ <;> rw [e, e']
    · exact i
    · exact i.setServo k (by simpa using i.goalRange k)

theorem step_inv (i : s.Inv) (h : step s = .next t) : t.Inv := by
  have ib : s.beginStep.Inv := i.congr rfl rfl rfl rfl rfl rfl
  rcases step_cases h with
    ⟨_, h⟩ | ⟨_, _, rfl⟩ | ⟨_, _, rfl⟩ | ⟨_, h⟩ | ⟨r, _, rfl⟩ | ⟨_, _, rfl⟩ | ⟨_, _, rfl⟩ | ⟨_, rfl⟩
  · exact coreStep_inv ib h
  · exact ib.congr rfl rfl rfl rfl rfl rfl
  · exact ib.congr rfl rfl rfl rfl rfl rfl
  · exact timeoutStep_inv ib h
  · exact ib.busAccess r
  · exact ib.congr rfl rfl rfl rfl rfl rfl
  · exact ib.congr rfl rfl rfl rfl rfl rfl
  · exact inv_afterRst ib.params

/-! ### Every step keeps what the session says of `rx_buf` -/

/-- A byte written right behind a slice makes it longer. -/
theorem Memory.slice_write_snoc {m : Memory} {a n x : Nat} (b : Byte) (h : m.wf = true) (hx : x = a + n) :
    (m.write x b).slice a (n + 1) = m.slice a n ++ [b] := by
  subst hx
  exact Memory.slice_storeBytes [b] h

/-- The tail of a slice. -/
theorem Memory.slice_drop (m : Memory) (a n k : Nat) : m.slice (a + n) k = (m.slice a (n + k)).drop n := by
  rw [Memory.slice_add, List.drop_left' (Memory.slice_length m a n)]

theorem State.FrameTracked.congr (h : s.FrameTracked) (hdec : t.dec = s.dec) (hrx : t.rxBuf = s.rxBuf) :
    t.FrameTracked := by
  unfold State.FrameTracked State.coveredBytes at *
  rw [hdec, hrx]
  exact h

theorem frameTracked_awaitSync1 (h : s.dec.state = .awaitSync1) : s.FrameTracked := by
  unfold State.FrameTracked; rw [h]; trivial

theorem frameTracked_of_reset (h : s.dec = Decoder.reset) : s.FrameTracked := frameTracked_awaitSync1 (by rw [h]; rfl)

theorem frameTracked_awaitSync2 (h : s.dec.state = .awaitSync2) :
    s.FrameTracked ↔ s.rxBuf.slice 0 1 = [Config.sync] := by
  unfold State.FrameTracked; rw [h]

theorem frameTracked_awaitId (h : s.dec.state = .awaitId) :
    s.FrameTracked ↔ s.rxBuf.slice 0 2 = [Config.sync, Config.sync] := by
  unfold State.FrameTracked; rw [h]

theorem frameTracked_awaitLength (h : s.dec.state = .awaitLength) :
    s.FrameTracked ↔
      s.rxBuf.slice 0 3 = [Config.sync, Config.sync, Config.deviceId] ∧ s.dec.acc = Config.deviceId := by
  unfold State.FrameTracked; rw [h]

theorem frameTracked_accumulatePayload (h : s.dec.state = .accumulatePayload) :
    s.FrameTracked ↔
      s.rxBuf.slice 0 4 = [Config.sync, Config.sync, Config.deviceId, s.dec.lenReg] ∧
        s.dec.acc = sum8 (s.coveredBytes s.dec.count.toNat) := by
  unfold State.FrameTracked; rw [h]

theorem frameTracked_done (h : s.dec.state = .done) :
    s.FrameTracked ↔
      s.rxBuf.slice 0 4 = [Config.sync, Config.sync, Config.deviceId, s.dec.lenReg] ∧
        s.dec.acc = sum8 (s.coveredBytes (s.dec.lenReg.toNat - 1)) := by
  unfold State.FrameTracked; rw [h]

theorem takeLength_tracked (i : s.Inv) (hs : s.dec.state = .awaitLength) (h : s.FrameTracked) (b : Byte) :
    (s.takeLength b).FrameTracked := by
  obtain ⟨hhead, hacc⟩ := (frameTracked_awaitLength hs).mp h
  have hhead' : (s.rxBuf.write 3 b).slice 0 4 = [Config.sync, Config.sync, Config.deviceId, b] := by
    rw [Memory.slice_write_snoc (n := 3) b i.rxCanonical rfl, hhead]; rfl
  have hcov : (s.takeLength b).coveredBytes 0 = [Config.deviceId, b] :=
    (Memory.slice_drop _ 0 2 2).trans (by rw [State.takeLength_rxBuf, hhead']; rfl)
  refine (frameTracked_accumulatePayload rfl).mpr ⟨hhead', ?_⟩
  change s.dec.acc + b = sum8 ((s.takeLength b).coveredBytes 0)
  rw [hcov, hacc]
  simp

/-- The covered bytes grow by the body byte just stored. -/
theorem coveredBytes_takeBodyByte (i : s.Inv) (b : Byte) :
    (s.takeBodyByte b).coveredBytes (s.dec.count.toNat + 1) = s.coveredBytes s.dec.count.toNat ++ [b] :=
  Memory.slice_write_snoc b i.rxCanonical (by omega)

/-- The covered bytes before the body byte just stored are what they were. -/
theorem coveredBytes_takeBodyByte_before (s : State) (b : Byte) :
    (s.takeBodyByte b).coveredBytes s.dec.count.toNat = s.coveredBytes s.dec.count.toNat :=
  Memory.slice_write_outside b (.inr (by omega))

theorem byteAccumulate_tracked {b : Byte} (i : s.Inv) (hs : s.dec.state = .accumulatePayload) (h : s.FrameTracked)
    (hb : byteAccumulate b s = .next t) : t.FrameTracked := by
  obtain ⟨hhead, hacc⟩ := (frameTracked_accumulatePayload hs).mp h
  have hhead' : (s.rxBuf.write (4 + s.dec.count.toNat) b).slice 0 4 =
      [Config.sync, Config.sync, Config.deviceId, s.dec.lenReg] :=
    (Memory.slice_write_outside b (.inr (by omega))).trans hhead
  have hlt := i.countLt hs
  have hsucc := i.count_succ hs
  obtain ⟨_, ⟨he, rfl⟩ | ⟨hne, rfl⟩⟩ := byteAccumulate_cases hb
  · have hlen : s.dec.lenReg.toNat = s.dec.count.toNat + 1 := by rw [← he, hsucc]
    refine (frameTracked_done rfl).mpr ⟨hhead', ?_⟩
    change (s.takeBodyByte b).dec.acc = sum8 ((s.takeBodyByte b).coveredBytes (s.dec.lenReg.toNat - 1))
    rw [show s.dec.lenReg.toNat - 1 = s.dec.count.toNat by omega, coveredBytes_takeBodyByte_before, ← hacc,
      State.takeBodyByte_last b (by omega)]
  · have hne' : (s.dec.count + 1).toNat ≠ s.dec.lenReg.toNat := fun h => hne (BitVec.eq_of_toNat_eq h)
    refine (frameTracked_accumulatePayload (s := s.takeBodyByte b) hs).mpr ⟨hhead', ?_⟩
    change (s.takeBodyByte b).dec.acc = sum8 ((s.takeBodyByte b).coveredBytes (s.dec.count + 1).toNat)
    rw [hsucc, coveredBytes_takeBodyByte i, sum8_append, ← hacc, State.takeBodyByte_more b (by omega)]
    simp

theorem byteStep_tracked {b : Byte} (i : s.Inv) (h : s.FrameTracked) (hb : byteStep b s = .next t) :
    t.FrameTracked := by
  rcases byteStep_cases hb with ⟨hs, rfl⟩ | ⟨hs, rfl⟩ | ⟨hs, rfl⟩ | ⟨hs, rfl⟩ | ⟨hs, hb⟩ | ⟨_, rfl⟩
  · rcases byteAwaitSync1_cases b s with ⟨_, e⟩ | ⟨_, e⟩ <;> rw [e]
    · exact (frameTracked_awaitSync2 rfl).mpr (Memory.slice_write_snoc _ i.rxCanonical rfl)
    · exact h
  · rcases byteAwaitSync2_cases b s with ⟨_, e⟩ | ⟨_, e⟩ <;> rw [e]
    · refine (frameTracked_awaitId rfl).mpr ((Memory.slice_write_snoc (n := 1) _ i.rxCanonical rfl).trans ?_)
      rw [(frameTracked_awaitSync2 hs).mp h]; rfl
    · exact frameTracked_of_reset rfl
  · rcases byteAwaitId_cases b s with ⟨_, e⟩ | ⟨rfl, e⟩ <;> rw [e]
    · exact frameTracked_of_reset rfl
    · refine (frameTracked_awaitLength rfl).mpr ⟨(Memory.slice_write_snoc (n := 2) _ i.rxCanonical rfl).trans ?_, rfl⟩
      rw [(frameTracked_awaitId hs).mp h]; rfl
  · rcases byteAwaitLength_cases b s with ⟨_, e⟩ | ⟨_, e⟩ | ⟨_, _, e⟩ <;> rw [e]
    · exact frameTracked_of_reset rfl
    · exact frameTracked_of_reset rfl
    · exact takeLength_tracked i hs h b
  · exact byteAccumulate_tracked i hs h hb
  · exact h

theorem idleStep_tracked (i : s.Inv) (h : s.FrameTracked) (hi : idleStep s = .next t) : t.FrameTracked := by
  rcases idleStep_cases hi with rfl | ⟨b, rest, _, _, hb⟩
  · exact h
  · exact byteStep_tracked (s := s.popRx) (i.congr rfl rfl rfl rfl rfl rfl) (h.congr rfl rfl) hb

theorem timeoutIfIdle_tracked (h : s.FrameTracked) : (timeoutIfIdle s).FrameTracked := by
  rcases timeoutIfIdle_session s with ⟨hdec, hrx⟩ | hdec
  · exact h.congr hdec hrx
  · exact frameTracked_of_reset hdec

theorem step_tracked (i : s.Inv) (h : s.FrameTracked) (hs : step s = .next t) : t.FrameTracked := by
  rcases step_session_cases hs with ⟨u, _, hu, ht⟩ | ⟨hdec, hrx⟩ | hdec
  · have hu' : u.FrameTracked :=
      idleStep_tracked (s := s.beginStep) (i.congr rfl rfl rfl rfl rfl rfl) (h.congr rfl rfl) hu
    rcases ht with rfl | rfl
    · exact hu'
    · exact timeoutIfIdle_tracked hu'
  · exact h.congr hdec hrx
  · exact frameTracked_of_reset hdec

end Invariant

/-- Settles O39: `step_inv`, one rule per turn, phase and state operation. -/
theorem invariantKept : Obligations.InvariantKept := by
  unfold Obligations.InvariantKept
  intro s t i h
  exact step_inv i h

/-- Settles O40: outside the byte steps a session is kept or ended, and each byte step extends it by the byte stored. -/
theorem trackingKept : Obligations.TrackingKept := by
  unfold Obligations.TrackingKept
  intro s t i htr h
  exact step_tracked i htr h

/-- Settles O41: the machine starts as a reset leaves it, and a reset meets both invariants. -/
theorem resetMeetsInvariants : Obligations.ResetMeetsInvariants := by
  unfold Obligations.ResetMeetsInvariants
  rw [← reset_eq_afterRst]
  exact ⟨inv_afterRst (by decide), frameTracked_of_reset rfl⟩

end Sys2Proof.Machine
end

section
/-! PROOFS. The family of 20_memory.md: what a port-B turn does at every address (R64, R65). -/

namespace Sys2Proof.Machine

/-- `REG.id[k]` as port B returns it (R31, R64). -/
theorem servoId_setWidth (k : Fin 12) : (servoId k).setWidth 16 = BitVec.ofNat 16 (k.val + 1) := by
  revert k; decide

/-- The table of R64: the eight fields, each with what a read of it returns and what a write of `v` leaves in the record. -/
theorem mem_fieldTable {x : Servo} {k : Fin 12} {v d : Half} {f : Nat} {r : Servo}
    (h : (f, d, r) ∈ [(0, BitVec.ofNat 16 (k.val + 1), x), (1, x.torqueSwitch.setWidth 16, x), (2, x.goalPosition, x),
      (3, x.presentPosition, { x with presentPosition := v }), (4, x.presentVelocity, { x with presentVelocity := v }),
      (5, x.presentLoad, { x with presentLoad := v }), (6, 0, x), (7, 0, x)]) :
    f < 8 ∧ readField x k f = d ∧ writeField x v f = r := by
  simp only [List.mem_cons, Prod.mk.injEq, List.not_mem_nil, or_false] at h
  rcases h with ⟨rfl, rfl, rfl⟩ | ⟨rfl, rfl, rfl⟩ | ⟨rfl, rfl, rfl⟩ | ⟨rfl, rfl, rfl⟩ | ⟨rfl, rfl, rfl⟩ |
    ⟨rfl, rfl, rfl⟩ | ⟨rfl, rfl, rfl⟩ | ⟨rfl, rfl, rfl⟩
  · exact ⟨by decide, servoId_setWidth k, rfl⟩
  all_goals exact ⟨by decide, rfl, rfl⟩

section Turns

variable {s : State} {addr : BitVec 7} {v : Half}

/-- A port-B read turn puts the word it reads on `b_rdata` and changes nothing else. -/
theorem step_busRead (h : s.nextTurn = .bus ⟨false, addr, v⟩) :
    step s = .next { s.beginStep with bRdata := some (s.beginStep.busRead addr) } :=
  step_of_turn h

theorem step_busWrite (h : s.nextTurn = .bus ⟨true, addr, v⟩) : step s = .next (s.beginStep.busWrite addr v) :=
  step_of_turn h

end Turns

/-- Settles O46: an address is a record and a field of the table of R64, or lies in the hole, which names no record. -/
theorem portBAccess : Obligations.PortBAccess := by
  unfold Obligations.PortBAccess
  intro s v
  constructor
  · intro k f d r hmem
    obtain ⟨hf, hread, hwrite⟩ := mem_fieldTable hmem
    have hindex := busIndex_addr k hf
    have hfield := busField_addr k hf
    constructor
    · intro hturn
      rw [step_busRead hturn, busRead_record k hindex, hfield, State.beginStep_reg, hread]
    · intro hturn
      rw [step_busWrite hturn, busWrite_record v k hindex, hfield, State.beginStep_reg, hwrite]
      rfl
  · intro addr haddr
    have hhole := busIndex_hole haddr
    constructor
    · intro hturn
      rw [step_busRead hturn, busRead_hole hhole]
    · intro hturn
      rw [step_busWrite hturn, busWrite_hole v hhole]

end Sys2Proof.Machine
end

section
/-! PROOFS. The family of 30_encoding.md: frames and instructions say the same, in both directions (R81 to R91), and an
accepted control frame stages its goals (R85, R165). -/

namespace Sys2Proof

/-! ### An instruction is its instruction byte and payload (R88) -/

@[simp] theorem instrOfBody_byte (b : Byte) (p : List Byte) : (instrOfBody b p).byte = b := by
  unfold instrOfBody
  split
  · exact Eq.symm ‹_›
  · rfl

@[simp] theorem instrOfBody_payload (b : Byte) (p : List Byte) : (instrOfBody b p).payload = p := by
  by_cases hb : b = Config.instControl
  · subst hb
    by_cases hp : p.length = 24
    · rw [instrOfBody_goals hp]; exact payloadOfGoals_goalsOfPayload p hp
    · rw [instrOfBody_wrongLength hp]; rfl
  · rw [instrOfBody_other p hb]; rfl

theorem encode_instrOfBody (b : Byte) (p : List Byte) : encode (instrOfBody b p) = frame b p := by
  unfold encode
  rw [instrOfBody_byte, instrOfBody_payload]

theorem payloadFits_iff (cap n : Nat) : payloadFits cap n = true ↔ n + 2 < 256 ∧ n + 6 ≤ cap := decide_eq_true_iff

/-- Well-formed says two things: the payload fits a frame, and instruction decode reads the instruction back. -/
theorem Instr.wf_iff (cap : Nat) (i : Instr) :
    i.wf cap = true ↔ payloadFits cap i.payload.length = true ∧ instrOfBody i.byte i.payload = i := by
  cases i with
  | instOther b p =>
    simp only [Instr.wf, Instr.byte, Instr.payload, Bool.and_eq_true, decide_eq_true_iff]
    refine and_congr_right fun _ => ⟨instrOfBody_other p, ?_⟩
    rintro h rfl
    cases h
  | instControl op =>
    cases op with
    | goals g =>
      simp only [Instr.wf, ControlOperand.wf, Instr.byte, Instr.payload, payloadOfGoals_length]
      rw [instrOfBody_goals (payloadOfGoals_length g), goalsOfPayload_payloadOfGoals, and_iff_left rfl]
    | wrongLength p =>
      simp only [Instr.wf, ControlOperand.wf, Instr.byte, Instr.payload, Bool.and_eq_true, decide_eq_true_iff]
      refine and_congr_right fun _ => ⟨instrOfBody_wrongLength, fun h hp => ?_⟩
      rw [instrOfBody_goals hp] at h
      cases h

theorem instrOfBody_wf {cap : Nat} (b : Byte) {p : List Byte} (h : payloadFits cap p.length = true) :
    (instrOfBody b p).wf cap = true := by
  rw [Instr.wf_iff, instrOfBody_byte, instrOfBody_payload]
  exact ⟨h, rfl⟩

/-! ### What the frame decoder accepts (R81 to R83, R90, R91) -/

/-- The accepted bodies: an instruction byte, the payload the length asks for, and its checksum. -/
theorem decodeBody_ok_iff (id len : Byte) (bs : List Byte) (i : Instr) (rest : List Byte) :
    decodeBody id len bs = .ok i rest ↔ ∃ b p, p.length = len.toNat - 2 ∧ i = instrOfBody b p ∧
      bs = b :: (p ++ compute (covered id len b p) :: rest) := by
  constructor
  · intro h
    unfold decodeBody at h
    split at h
    · cases h
    · rename_i b tail
      simp only at h
      split at h
      · cases h
      · rename_i chk rest' hdrop
        split at h
        · rename_i hchk
          cases h
          have hlen := congrArg List.length hdrop
          simp only [List.length_drop, List.length_cons] at hlen
          refine ⟨b, tail.take (len.toNat - 2), List.length_take_of_le (by omega), rfl, ?_⟩
          rw [← hchk, ← hdrop, List.take_append_drop]
        · cases h
  · rintro ⟨b, p, hlen, rfl, rfl⟩
    unfold decodeBody
    simp only [← hlen, List.take_left, List.drop_left, if_true]

/-- The accepted headers: both sync bytes, this device, and a length in range. -/
theorem decode_ok_iff_header (cap : Nat) (bs : List Byte) (i : Instr) (rest : List Byte) :
    decode cap bs = .ok i rest ↔ ∃ len body, 2 ≤ len.toNat ∧ len.toNat + 4 ≤ cap ∧
      bs = Config.sync :: Config.sync :: Config.deviceId :: len :: body ∧
      decodeBody Config.deviceId len body = .ok i rest := by
  constructor
  · intro h
    unfold decode at h
    split at h
    · rename_i s0 s1 id len body
      split at h
      · cases h
      split at h
      · cases h
      split at h
      · cases h
      split at h
      · cases h
      rename_i hsync hid hshort hlong
      obtain ⟨rfl, rfl⟩ : s0 = Config.sync ∧ s1 = Config.sync := by simpa using hsync
      obtain rfl : id = Config.deviceId := by simpa using hid
      exact ⟨len, body, by omega, by omega, rfl, h⟩
    · cases h
  · rintro ⟨len, body, hshort, hlong, rfl, h⟩
    simp only [decode, ne_eq, not_true_eq_false, or_self, if_false]
    rw [if_neg (by omega), if_neg (by omega), h]

/-- The decoder accepts exactly the frames whose payload fits, and reads their instruction byte and payload. -/
theorem decode_ok_iff (cap : Nat) (bs : List Byte) (i : Instr) (rest : List Byte) :
    decode cap bs = .ok i rest ↔
      ∃ b p, payloadFits cap p.length = true ∧ i = instrOfBody b p ∧ bs = frame b p ++ rest := by
  simp only [decode_ok_iff_header, decodeBody_ok_iff, payloadFits_iff]
  constructor
  · rintro ⟨len, _, hshort, hlong, rfl, b, p, hlen, rfl, rfl⟩
    obtain rfl : BitVec.ofNat 8 (p.length + 2) = len := by bv_omega
    exact ⟨b, p, by omega, rfl, by simp [frame]⟩
  · rintro ⟨b, p, ⟨hbyte, hcap⟩, rfl, rfl⟩
    have hlen : (BitVec.ofNat 8 (p.length + 2)).toNat = p.length + 2 := Nat.mod_eq_of_lt hbyte
    exact ⟨BitVec.ofNat 8 (p.length + 2), _, by omega, by omega, by simp [frame], b, p, by omega, rfl, rfl⟩

/-- Settles O7: a well-formed instruction's frame is one the decoder accepts, and its byte and payload give it back. -/
theorem decodeOfEncode : Obligations.DecodeOfEncode := by
  unfold Obligations.DecodeOfEncode
  intro cap i rest h
  obtain ⟨hfits, hbody⟩ := (Instr.wf_iff cap i).mp h
  exact (decode_ok_iff cap _ i rest).mpr ⟨i.byte, i.payload, hfits, hbody.symm, rfl⟩

/-- Settles O8: accepted bytes are a frame whose payload fits, and its instruction encodes to that frame. -/
theorem encodeOfDecode : Obligations.EncodeOfDecode := by
  unfold Obligations.EncodeOfDecode
  intro cap i bs rest h
  obtain ⟨b, p, hfits, rfl, rfl⟩ := (decode_ok_iff cap bs i rest).mp h
  exact ⟨instrOfBody_wf b hfits, by rw [encode_instrOfBody]⟩

/-- Settles O9: the decoder evaluates to each answer, on seven closed frames. -/
theorem specWordsDecode : Obligations.SpecWordsDecode := by
  unfold Obligations.SpecWordsDecode
  refine ⟨?_, ?_, ?_, ?_, ?_, ?_, ?_⟩ <;> decide

/-! ### The goals VALIDATE stages (R85, R164, R165) -/

theorem goalsOfPayload_getElem (p : List Byte) (k : Fin 12) :
    (goalsOfPayload p)[k] = half (p.getD (2 * k.val) 0) (p.getD (2 * k.val + 1) 0) :=
  tabulate12_getElem _ k.val k.isLt

/-- A body that decodes to goals is their 24 payload bytes. -/
theorem payload_of_instrOfBody_goals {b : Byte} {p : List Byte} {g : Vector Half 12}
    (h : instrOfBody b p = .instControl (.goals g)) : p = payloadOfGoals g := by
  rw [← instrOfBody_payload b p, h]
  rfl

namespace Machine

/-- Goal `k` of a buffered control frame, as a number (R85). -/
theorem goal_toNat_of_slice {m : Memory} {n : Nat} {b : Byte} {g : Vector Half 12}
    (h : instrOfBody b (m.slice 5 n) = .instControl (.goals g)) (k : Fin 12) :
    g[k].toNat = (m.read (5 + 2 * k.val)).toNat + 256 * (m.read (6 + 2 * k.val)).toNat := by
  have hp := payload_of_instrOfBody_goals h
  have hn : n = 24 := by simpa using congrArg List.length hp
  rw [← goalsOfPayload_payloadOfGoals g, ← hp, goalsOfPayload_getElem, half_toNat, Memory.slice_getD m (by omega),
    Memory.slice_getD m (by omega), show 5 + (2 * k.val + 1) = 6 + 2 * k.val by omega]

/-- A VALIDATE step that leads to a phase other than CLEAR has staged the clamped goals of the buffered frame. -/
theorem validateStep_stages {s t : State} (h : validateStep s = .next t) (hp : t.seq.phase ≠ .clear) :
    ∃ g, instrOfBody (s.rxBuf.read 4) (s.rxBuf.slice 5 (s.dec.lenReg.toNat - 2)) = .instControl (.goals g) ∧
      t.seq.goalStage = clampGoals g := by
  rcases validateStep_cases h with ⟨_, _, _, rfl⟩ | ⟨g, hg, ⟨_, rfl⟩ | ⟨_, rfl⟩⟩
  · exact absurd rfl hp
  · exact ⟨g, hg, rfl⟩
  · exact ⟨g, hg, rfl⟩

/-- Settles O29: the staged goals are the clamped goals of the frame in `rx_buf`. -/
theorem validateStagesGoals : Obligations.ValidateStagesGoals := by
  unfold Obligations.ValidateStagesGoals
  intro s t hs h hp k
  rw [coreIn.step hs, coreStep_validate (by simpa using hs.2)] at h
  obtain ⟨g, hg, hstage⟩ := validateStep_stages h hp
  have hk : t.seq.goalStage[k] = clampGoal g[k] := by rw [hstage]; exact clampGoals_getElem g k.val k.isLt
  rw [hk, clampGoal_toNat, goal_toNat_of_slice hg k, State.beginStep_rxBuf]

end Machine

end Sys2Proof
end

section
/-! PROOFS. The family of 40_checksum.md: `verify` read off the sum (R103), which changes it detects (R104) and which it
lets pass (R105), and its agreement with the running sum (R102). -/

namespace Sys2Proof

/-! ### `verify` as a statement about the sum (R103) -/

/-- The stored checksum completes the covered bytes' sum to `0xFF`, and no other byte does. -/
theorem eq_compute_iff_sum8_add (bs : List Byte) (c : Byte) : c = compute bs ↔ sum8 bs + c = 0xFF := by
  rw [← sum8_add_compute bs, BitVec.add_right_inj]

theorem verify_snoc_iff_sum8_add (bs : List Byte) (c : Byte) : verify (bs ++ [c]) = true ↔ sum8 bs + c = 0xFF := by
  rw [verify_snoc, decide_eq_true_iff, eq_compute_iff_sum8_add]

theorem verify_iff_sum8 {bs : List Byte} (h : bs ≠ []) : verify bs = true ↔ sum8 bs = 0xFF := by
  obtain ⟨cov, c, rfl⟩ := List.eq_nil_or_concat' bs |>.resolve_left h
  rw [verify_snoc_iff_sum8_add, sum8_append, sum8_cons, sum8_nil, add_zero]

/-- Settles O3: the last byte is the complement of the others' sum exactly when it completes that sum to `0xFF`. -/
theorem verifyIffSumIsAllOnes : Obligations.VerifyIffSumIsAllOnes := by
  unfold Obligations.VerifyIffSumIsAllOnes
  intro bs h
  exact verify_iff_sum8 h

/-! ### A flipped bit (R104) -/

theorem ofNat_two_pow (j : Nat) : BitVec.ofNat 8 (2 ^ j) = BitVec.twoPow 8 j :=
  BitVec.eq_of_toNat_eq (by rw [BitVec.toNat_ofNat, BitVec.toNat_twoPow])

theorem twoPow_ne_zero {j : Nat} (hj : j < 8) : BitVec.twoPow 8 j ≠ 0#8 := by
  intro h
  have hweight := congrArg BitVec.toNat h
  rw [BitVec.toNat_twoPow_of_lt hj] at hweight
  exact absurd hweight (Nat.two_pow_pos j).ne'

/-- Flipping a bit that is clear adds its weight. -/
theorem xor_twoPow_of_clear {b : Byte} {j : Nat} (h : b.getLsbD j = false) :
    b ^^^ BitVec.twoPow 8 j = b + BitVec.twoPow 8 j := by
  have hdisjoint : b &&& BitVec.twoPow 8 j = 0#8 := by rw [BitVec.and_twoPow, h]; rfl
  rw [BitVec.add_eq_or_of_and_eq_zero _ _ hdisjoint]
  refine BitVec.eq_of_getLsbD_eq fun i hi => ?_
  rw [BitVec.getLsbD_xor, BitVec.getLsbD_or]
  rcases eq_or_ne i j with rfl | hij
  · rw [h, Bool.false_xor, Bool.false_or]
  · simp [BitVec.getLsbD_twoPow, hij.symm]

/-- Flipping a bit that is set takes its weight away: flipping it back adds the weight. -/
theorem xor_twoPow_of_set {b : Byte} {j : Nat} (hj : j < 8) (h : b.getLsbD j = true) :
    b ^^^ BitVec.twoPow 8 j = b - BitVec.twoPow 8 j := by
  have hclear : (b ^^^ BitVec.twoPow 8 j).getLsbD j = false := by simp [h, hj]
  have hback := xor_twoPow_of_clear hclear
  rw [BitVec.xor_assoc, BitVec.xor_self, BitVec.xor_zero] at hback
  exact BitVec.eq_sub_iff_add_eq.mpr hback.symm

/-- One flipped bit moves the sum by the bit's weight, up or down. -/
theorem sum8_flip (pre post : List Byte) (b : Byte) {j : Nat} (hj : j < 8) :
    sum8 (pre ++ (b ^^^ BitVec.twoPow 8 j) :: post) = sum8 (pre ++ b :: post) + BitVec.twoPow 8 j ∨
      sum8 (pre ++ (b ^^^ BitVec.twoPow 8 j) :: post) = sum8 (pre ++ b :: post) - BitVec.twoPow 8 j := by
  simp only [sum8_append, sum8_cons]
  cases h : b.getLsbD j with
  | false =>
    left
    rw [xor_twoPow_of_clear h]
    ring
  | true =>
    right
    rw [xor_twoPow_of_set hj h]
    ring

/-- Settles O4: the flip moves the sum by a weight that is not 0, so the sum leaves the one value that verifies. -/
theorem singleBitErrorDetected : Obligations.SingleBitErrorDetected := by
  unfold Obligations.SingleBitErrorDetected
  intro pre post b j
  simp only [ofNat_two_pow]
  have hsum := sum8_flip pre post b j.isLt
  refine ⟨hsum, fun hbefore => ?_⟩
  have hweight := twoPow_ne_zero j.isLt
  rw [verify_iff_sum8 (by simp)] at hbefore
  rw [← Bool.not_eq_true, verify_iff_sum8 (by simp)]
  intro hafter
  rw [hbefore, hafter] at hsum
  rcases hsum with h | h
  · exact hweight (by bv_omega)
  · exact hweight (by bv_omega)

/-! ### Changes that keep the sum (R105) -/

theorem verify_snoc_congr {cov cov' : List Byte} (h : sum8 cov = sum8 cov') (c : Byte) :
    verify (cov ++ [c]) = verify (cov' ++ [c]) := by
  rw [Bool.eq_iff_iff, verify_snoc_iff_sum8_add, verify_snoc_iff_sum8_add, h]

theorem sum8_perm {as bs : List Byte} (h : as.Perm bs) : sum8 as = sum8 bs := by
  induction h with
  | nil => rfl
  | cons b _ ih => rw [sum8_cons, sum8_cons, ih]
  | swap a b bs => exact add_left_comm b a (sum8 bs)
  | trans _ _ ih ih' => exact ih.trans ih'

/-- Settles O5: `verify` sees the covered bytes through their sum, and reordering keeps it; the two frames are computed. -/
theorem sumPreservingChangePasses : Obligations.SumPreservingChangePasses := by
  unfold Obligations.SumPreservingChangePasses
  refine ⟨fun _ _ c h => verify_snoc_congr h c, fun _ _ c h => verify_snoc_congr (sum8_perm h) c, ?_, ?_⟩
  · decide
  · decide

/-! ### The running sum (R102) -/

namespace Machine

/-- Settles O43: the accumulator is the covered bytes' sum, and the stored checksum is the byte after them. -/
theorem runningSumAgreesWithVerify : Obligations.RunningSumAgreesWithVerify := by
  unfold Obligations.RunningSumAgreesWithVerify
  intro s i htracked hdone
  obtain ⟨_, hacc⟩ := (frameTracked_done hdone).mp htracked
  obtain ⟨hlen, _⟩ := i.lengthRange (.inr hdone)
  have hcovered : s.dec.lenReg.toNat - 1 + 2 = s.dec.lenReg.toNat + 1 := by omega
  have hstored : 2 + (s.dec.lenReg.toNat + 1) = s.dec.lenReg.toNat + 3 := by omega
  have hframe := s.rxBuf.slice_succ 2 (s.dec.lenReg.toNat + 1)
  rw [hacc, State.coveredBytes, hcovered, hframe, hstored, verify_snoc, decide_eq_true_iff, compute]

end Machine

end Sys2Proof
end

section
/-! PROOFS. The family of 41_frame_decoder.md: the byte step in each decoder state (R121 to R128), the timeout (R131), and
runs of the decoder over noise, sync bytes and whole frames (R133, R134, R137). -/

namespace Sys2Proof.Machine

/-! ### The byte step, one equation per decoder state (R122 to R128) -/

section ByteStep

variable {b : Byte} {rest : List Byte} {s : State}

@[simp] theorem State.tookByte_params : (s.tookByte rest).params = s.params := rfl
@[simp] theorem State.tookByte_rxLine : (s.tookByte rest).env.rxLine = rest := rfl

theorem byteStep_awaitSync1 (h : s.dec.state = .awaitSync1) : byteStep b s = .next (byteAwaitSync1 b s) := by
  unfold byteStep; rw [h]

theorem byteStep_awaitSync2 (h : s.dec.state = .awaitSync2) : byteStep b s = .next (byteAwaitSync2 b s) := by
  unfold byteStep; rw [h]

theorem byteStep_awaitId (h : s.dec.state = .awaitId) : byteStep b s = .next (byteAwaitId b s) := by
  unfold byteStep; rw [h]

theorem byteStep_awaitLength (h : s.dec.state = .awaitLength) : byteStep b s = .next (byteAwaitLength b s) := by
  unfold byteStep; rw [h]

theorem byteStep_accumulatePayload (h : s.dec.state = .accumulatePayload) : byteStep b s = byteAccumulate b s := by
  unfold byteStep; rw [h]

theorem byteAwaitLength_short (h : b.toNat < 2) : byteAwaitLength b s = s.rejectFrame .headerRejectedShort b := if_pos h

theorem byteAwaitLength_long (h2 : 2 ≤ b.toNat) (h : s.params.cap < b.toNat + 4) :
    byteAwaitLength b s = s.rejectFrame .headerRejectedLong b := by
  unfold byteAwaitLength; rw [if_neg (by omega), if_pos h]

theorem byteAwaitLength_accepted (h2 : 2 ≤ b.toNat) (h : b.toNat + 4 ≤ s.params.cap) :
    byteAwaitLength b s = s.takeLength b := by
  unfold byteAwaitLength; rw [if_neg (by omega), if_neg (by omega)]

/-- A count below the length is a byte that does not wrap when it rises (R24). -/
theorem count_add_one (h : s.dec.count.toNat < s.dec.lenReg.toNat) :
    (s.dec.count + 1).toNat = s.dec.count.toNat + 1 := by
  have := s.dec.lenReg.isLt
  bv_omega

theorem byteAccumulate_more (hcap : s.dec.lenReg.toNat + 4 ≤ s.params.cap)
    (h : s.dec.count.toNat + 1 < s.dec.lenReg.toNat) : byteAccumulate b s = .next (s.takeBodyByte b) := by
  have hne : s.dec.count + 1 ≠ s.dec.lenReg := fun he => by
    have hsucc := count_add_one (s := s) (by omega)
    rw [he] at hsucc
    omega
  unfold byteAccumulate State.finishFrame
  exact (if_neg (by omega)).trans (congrArg Host.Outcome.next (if_neg hne))

theorem byteAccumulate_last (hcap : s.dec.lenReg.toNat + 4 ≤ s.params.cap)
    (h : s.dec.count.toNat + 1 = s.dec.lenReg.toNat) :
    byteAccumulate b s = .next (((s.takeBodyByte b).setDecState .done).setPhase .validate) := by
  have he : s.dec.count + 1 = s.dec.lenReg := BitVec.eq_of_toNat_eq ((count_add_one (by omega)).trans h)
  unfold byteAccumulate State.finishFrame
  exact (if_neg (by omega)).trans (congrArg Host.Outcome.next (if_pos he))

end ByteStep

/-- Settles O10: the byte is `FF` or it is not. -/
theorem byteInAwaitSync1 : Obligations.ByteInAwaitSync1 := by
  unfold Obligations.ByteInAwaitSync1
  intro s b rest h hs
  rw [offers.step h (by simp [hs]), byteStep_awaitSync1 (s := s.tookByte rest) hs]
  rcases byteAwaitSync1_cases b (s.tookByte rest) with ⟨hb, e⟩ | ⟨hb, e⟩
  · rw [e, if_pos hb]; rfl
  · rw [e, if_neg hb]

/-- Settles O11: on the branch that fails, the byte is not `FF`, so AwaitSync1 leaves the state `resync()` gave. -/
theorem byteInAwaitSync2 : Obligations.ByteInAwaitSync2 := by
  unfold Obligations.ByteInAwaitSync2
  intro s b rest h hs
  rw [offers.step h (by simp [hs]), byteStep_awaitSync2 (s := s.tookByte rest) hs]
  rcases byteAwaitSync2_cases b (s.tookByte rest) with ⟨hb, e⟩ | ⟨hb, e⟩
  · rw [e, if_pos hb]; rfl
  · rw [e, if_neg hb]; rfl

/-- Settles O12: the byte is the device's id or it is not. -/
theorem byteInAwaitId : Obligations.ByteInAwaitId := by
  unfold Obligations.ByteInAwaitId
  intro s b rest h hs
  rw [offers.step h (by simp [hs]), byteStep_awaitId (s := s.tookByte rest) hs]
  rcases byteAwaitId_cases b (s.tookByte rest) with ⟨hb, e⟩ | ⟨hb, e⟩
  · rw [e, if_neg hb]; rfl
  · rw [e, if_pos hb]; rfl

/-- Settles O13: three ranges of the length byte, which do not meet because `CAP - 4` is above 2. -/
theorem byteInAwaitLength : Obligations.ByteInAwaitLength := by
  unfold Obligations.ByteInAwaitLength
  intro s b rest h hs hcap
  rw [offers.step h (by simp [hs]), byteStep_awaitLength (s := s.tookByte rest) hs]
  refine ⟨fun hshort => ?_, fun hlong => ?_, fun h2 hfits => ?_⟩
  · rw [byteAwaitLength_short hshort]; rfl
  · rw [byteAwaitLength_long (by omega) (by rw [State.tookByte_params]; omega)]; rfl
  · rw [byteAwaitLength_accepted h2 (by rw [State.tookByte_params]; omega)]; rfl

/-- Settles O14: the byte is the last one or it is not. -/
theorem byteInAccumulate : Obligations.ByteInAccumulate := by
  unfold Obligations.ByteInAccumulate
  intro s b rest h hs hlt hcap
  rw [offers.step h (by simp [hs]), byteStep_accumulatePayload (s := s.tookByte rest) hs]
  refine ⟨fun hmore => ?_, fun hlast => ?_⟩
  · rw [byteAccumulate_more (s := s.tookByte rest) hcap hmore,
      State.takeBodyByte_more (s := s.tookByte rest) b hmore]
    rfl
  · rw [byteAccumulate_last (s := s.tookByte rest) hcap hlast,
      State.takeBodyByte_last (s := s.tookByte rest) b hlast.ge]
    rfl

/-! ### No byte offered (R133), and the timeout (R131) -/

theorem step_core_idle {s : State} (h : s.coreIn .idle) : step s = idleStep s.beginStep :=
  (coreIn.step h).trans (coreStep_idle h.2)

/-- Settles O16: the idle core with no byte offered has no step to take. -/
theorem idleCoreWaits : Obligations.IdleCoreWaits := by
  unfold Obligations.IdleCoreWaits
  intro s h hl
  rw [step_core_idle h, idleStep_nil (s := s.beginStep) hl]

theorem timeoutStep_busy {s : State} (h : s.seq.phase ≠ .idle) : timeoutStep s = .next s := by
  unfold timeoutStep
  rw [if_neg fun hr => h ((rxReady_iff s).mp hr)]

/-- In IDLE a byte step, if a byte is offered, comes before the timeout (R235). -/
theorem timeoutStep_idle {s u : State} (h : s.seq.phase = .idle) (hu : idleStep s = .next u) :
    timeoutStep s = .next (timeoutIfIdle u) := by
  unfold timeoutStep
  rw [if_pos ((rxReady_iff s).mpr h), hu]

/-- Settles O15: in IDLE the timeout is judged on what the idle core leaves, which is the state itself when no byte is
offered. -/
theorem timeoutEvent : Obligations.TimeoutEvent := by
  unfold Obligations.TimeoutEvent
  intro s hturn resynced truncated timedOut
  have htimed (u : State) : timeoutEffect u = timedOut u := by
    simp only [timedOut]
    unfold timeoutEffect
    cases u.dec.state <;> rfl
  have hstep : step s = timeoutStep s.beginStep := step_of_turn hturn
  refine ⟨fun hp => ?_, fun hp hl => ?_, fun hp _ u hu => ?_⟩
  · rw [hstep, timeoutStep_busy (s := s.beginStep) hp]
  · rw [hstep, timeoutStep_idle (s := s.beginStep) hp (idleStep_nil hl), timeoutIfIdle_eq, if_pos (by exact hp),
      htimed]
  · rw [step_core_idle (by exact ⟨rfl, hp⟩)] at hu
    rw [hstep, timeoutStep_idle (s := s.beginStep) hp hu, timeoutIfIdle_eq, htimed]

/-! ### The waiting bytes (R40, R121) and the received frame (R130) outside IDLE -/

section Busy

variable {s t : State}

theorem coreStep_busy_rxLine (h : coreStep s = .next t) (hp : s.seq.phase ≠ .idle) : t.env.rxLine = s.env.rxLine := by
  rcases coreStep_cases h with ⟨hi, _⟩ | ⟨_, h⟩ | ⟨_, h⟩ | ⟨_, h⟩ | ⟨_, rfl⟩ | ⟨_, h⟩ | ⟨_, rfl⟩
  · exact absurd hi hp
  · rcases validateStep_cases h with ⟨_, _, _, rfl⟩ | ⟨_, _, ⟨_, rfl⟩ | ⟨_, rfl⟩⟩ <;> rfl
  · obtain ⟨_, _, ⟨_, rfl⟩ | ⟨_, rfl⟩⟩ := writeStep_cases h <;> rfl
  · obtain ⟨hk, ht⟩ := gatherStep_cases h
    obtain ⟨_, _, _, _, _, hline, _⟩ := gatherField_frame s hk
    rcases ht with ⟨_, rfl⟩ | ⟨_, rfl⟩ <;> exact hline
  · rfl
  · obtain ⟨_, ⟨_, rfl⟩ | ⟨_, _, rfl⟩ | ⟨_, _, rfl⟩⟩ := emitStep_cases h <;> rfl
  · cases ho : s.seq.outcome with
    | none => rw [clearStep_none ho]
    | some c => rw [clearStep_some ho]

/-- Everything a step can do to the waiting bytes: a newly offered byte goes behind them, or in IDLE the oldest is taken. -/
theorem step_rxLine_cases (h : step s = .next t) :
    t.env.rxLine = s.env.rxLine ++ s.nextTurn.offered ∨
      (s.seq.phase = .idle ∧ s.nextTurn.offered = [] ∧ ∃ b, s.env.rxLine = b :: t.env.rxLine) := by
  have kept {u : Turn} {l : List Byte} (hu : u.offered = []) (hl : l = s.env.rxLine) :
      l = s.env.rxLine ++ u.offered := by rw [hu, hl, List.append_nil]
  rcases step_cases h with
    ⟨hu, h⟩ | ⟨b, hu, rfl⟩ | ⟨_, hu, rfl⟩ | ⟨hu, h⟩ | ⟨r, hu, rfl⟩ | ⟨_, hu, rfl⟩ | ⟨_, hu, rfl⟩ | ⟨hu, rfl⟩ <;>
    rw [hu]
  · by_cases hp : s.seq.phase = .idle
    · rw [coreStep_idle (s := s.beginStep) hp] at h
      exact (idleStep_rxLine h).imp (kept rfl) fun ht => ⟨hp, rfl, ht⟩
    · exact .inl (kept rfl (coreStep_busy_rxLine (s := s.beginStep) h hp))
  · exact .inl rfl
  · exact .inl (kept rfl rfl)
  · rcases timeoutStep_cases h with ⟨_, rfl⟩ | ⟨hp, u, hidle, rfl⟩
    · exact .inl (kept rfl rfl)
    · obtain ⟨_, _, _, _, _, henv, _⟩ := timeoutIfIdle_frame u
      rw [henv]
      exact (idleStep_rxLine hidle).imp (kept rfl) fun ht => ⟨hp, rfl, ht⟩
  · obtain ⟨_, _, _, _, _, henv, _⟩ := busAccess_frame s.beginStep r
    exact .inl (kept rfl (by rw [henv]; rfl))
  · exact .inl (kept rfl rfl)
  · exact .inl (kept rfl rfl)
  · exact .inl (kept rfl rfl)

/-- Until CLEAR the core's transaction leaves the received frame alone (R130). -/
theorem coreStep_busy_session (h : coreStep s = .next t) (hp : s.seq.phase ≠ .idle) (hc : s.seq.phase ≠ .clear) :
    t.rxBuf = s.rxBuf ∧ t.dec = s.dec := by
  rcases coreStep_cases h with ⟨hi, _⟩ | ⟨_, h⟩ | ⟨_, h⟩ | ⟨_, h⟩ | ⟨_, rfl⟩ | ⟨_, h⟩ | ⟨hi, _⟩
  · exact absurd hi hp
  · obtain ⟨hdec, hrx, _⟩ := validateStep_frame h
    exact ⟨hrx, hdec⟩
  · obtain ⟨hdec, hrx, _⟩ := writeStep_frame h
    exact ⟨hrx, hdec⟩
  · obtain ⟨hdec, hrx, _⟩ := gatherStep_frame h
    exact ⟨hrx, hdec⟩
  · exact ⟨rfl, rfl⟩
  · obtain ⟨hdec, hrx, _⟩ := emitStep_frame h
    exact ⟨hrx, hdec⟩
  · exact absurd hi hc

end Busy

/-- Settles O17: of everything a step can do to the waiting bytes, taking one happens in IDLE only. -/
theorem waitingBytesKeptInOrder : Obligations.WaitingBytesKeptInOrder := by
  unfold Obligations.WaitingBytesKeptInOrder
  intro s t h offered
  have hcases : t.env.rxLine = s.env.rxLine ++ offered ∨
      (s.seq.phase = .idle ∧ offered = [] ∧ ∃ b, s.env.rxLine = b :: t.env.rxLine) := step_rxLine_cases h
  exact ⟨fun hp => hcases.resolve_right fun ⟨hidle, _⟩ => hp hidle,
    hcases.imp_right fun ⟨_, hnone, b, hb⟩ => ⟨b, hb, hnone⟩⟩

/-- Settles O47: outside IDLE only CLEAR and a reset end the decoder session. -/
theorem doneHoldsFrame : Obligations.DoneHoldsFrame := by
  unfold Obligations.DoneHoldsFrame
  intro s t h hp hr hc
  rcases step_cases h with
    ⟨hu, h⟩ | ⟨_, _, rfl⟩ | ⟨_, _, rfl⟩ | ⟨_, h⟩ | ⟨r, _, rfl⟩ | ⟨_, _, rfl⟩ | ⟨_, _, rfl⟩ | ⟨hu, _⟩
  · exact coreStep_busy_session (s := s.beginStep) h hp fun hclear => hc ⟨hu, hclear⟩
  · exact ⟨rfl, rfl⟩
  · exact ⟨rfl, rfl⟩
  · rw [timeoutStep_busy (s := s.beginStep) hp] at h
    cases h
    exact ⟨rfl, rfl⟩
  · obtain ⟨_, hdec, hrx, _⟩ := busAccess_frame s.beginStep r
    exact ⟨hrx, hdec⟩
  · exact ⟨rfl, rfl⟩
  · exact ⟨rfl, rfl⟩
  · exact absurd hu hr


/-! ### Noise and runs of sync bytes (R134 (a), R137) -/

/-- Settles O20: each byte is discarded by a step in AwaitSync1, which is where the next one finds the decoder. -/
theorem noiseIsDiscarded : Obligations.NoiseIsDiscarded := by
  unfold Obligations.NoiseIsDiscarded
  intro noise rest
  induction noise with
  | nil =>
    intro s _ _ _ _ hl
    exact ⟨s, rfl, rfl, rfl, rfl, rfl, hl⟩
  | cons b noise ih =>
    intro s ha hp hs hnoise hl
    obtain ⟨hb, hnoise⟩ := List.forall_mem_cons.mp hnoise
    have hstep := byteInAwaitSync1 s b (noise ++ rest) (offers_of_alone ha hp hl) hs
    rw [if_neg hb] at hstep
    obtain ⟨t, hrun, ht⟩ := ih (s.tookByte (noise ++ rest)) (tookByte_alone ha _) hp hs hnoise rfl
    exact ⟨t, (runSteps_succ _ hstep).trans hrun, ht⟩

/-- Only the core moves, the block waits for bytes with the decoder in `d`, and the bytes `line` are offered. -/
def State.waitsIn (s : State) (d : DecState) (line : List Byte) : Prop :=
  s.alone ∧ s.seq.phase = .idle ∧ s.dec.state = d ∧ s.env.rxLine = line

/-- The decoder state a byte leads to before the length is known (R122 to R124). -/
def headerNext : DecState → Byte → DecState
  | .awaitSync1, b => if b = 0xFF then .awaitSync2 else .awaitSync1
  | .awaitSync2, b => if b = 0xFF then .awaitId else .awaitSync1
  | .awaitId, b => if b = 0x01 then .awaitLength else .awaitSync1
  | d, _ => d

theorem waitsIn.step {s : State} {d : DecState} {b : Byte} {line : List Byte} (h : s.waitsIn d (b :: line))
    (hd : d = .awaitSync1 ∨ d = .awaitSync2 ∨ d = .awaitId) :
    ∃ t, step s = .next t ∧ t.waitsIn (headerNext d b) line := by
  obtain ⟨ha, hp, hs, hl⟩ := h
  have ho := offers_of_alone ha hp hl
  have ha' := tookByte_alone ha line
  rcases hd with rfl | rfl | rfl
  · refine ⟨_, byteInAwaitSync1 s b line ho hs, ?_⟩
    by_cases hb : b = 0xFF
    · rw [if_pos hb]; exact ⟨ha', hp, (if_pos hb).symm, rfl⟩
    · rw [if_neg hb]; exact ⟨ha', hp, hs.trans (if_neg hb).symm, rfl⟩
  · refine ⟨_, byteInAwaitSync2 s b line ho hs, ?_⟩
    by_cases hb : b = 0xFF
    · rw [if_pos hb]; exact ⟨ha', hp, (if_pos hb).symm, rfl⟩
    · rw [if_neg hb]; exact ⟨ha', hp, (if_neg hb).symm, rfl⟩
  · refine ⟨_, byteInAwaitId s b line ho hs, ?_⟩
    by_cases hb : b = 0x01
    · rw [if_pos hb]; exact ⟨ha', hp, (if_pos hb).symm, rfl⟩
    · rw [if_neg hb]; exact ⟨ha', hp, (if_neg hb).symm, rfl⟩

/-- Three sync bytes lead back to AwaitSync1, the third one rejected as an id, so a run counts by what is left of it
modulo three. -/
theorem syncRun_state (rest : List Byte) : ∀ (n : Nat) (s : State),
    s.waitsIn .awaitSync1 (List.replicate n 0xFF ++ 0x01 :: rest) →
      ∃ t, runSteps (n + 1) s = .next t ∧ t.dec.state = if n % 3 = 2 then .awaitLength else .awaitSync1
  | 0, s, h => by
    obtain ⟨t, hstep, _, _, hs, _⟩ := waitsIn.step h (.inl rfl)
    exact ⟨t, runSteps_succ 0 hstep, hs⟩
  | 1, s, h => by
    obtain ⟨u, hu, h⟩ := waitsIn.step h (.inl rfl)
    obtain ⟨t, hstep, _, _, hs, _⟩ := waitsIn.step h (.inr (.inl rfl))
    exact ⟨t, (runSteps_succ 1 hu).trans (runSteps_succ 0 hstep), hs⟩
  | 2, s, h => by
    obtain ⟨u, hu, h⟩ := waitsIn.step h (.inl rfl)
    obtain ⟨v, hv, h⟩ := waitsIn.step h (.inr (.inl rfl))
    obtain ⟨t, hstep, _, _, hs, _⟩ := waitsIn.step h (.inr (.inr rfl))
    exact ⟨t, (runSteps_succ 2 hu).trans ((runSteps_succ 1 hv).trans (runSteps_succ 0 hstep)), hs⟩
  | n + 3, s, h => by
    obtain ⟨u, hu, h⟩ := waitsIn.step h (.inl rfl)
    obtain ⟨v, hv, h⟩ := waitsIn.step h (.inr (.inl rfl))
    obtain ⟨w, hw, h⟩ := waitsIn.step h (.inr (.inr rfl))
    obtain ⟨t, hrun, hs⟩ := syncRun_state rest n w h
    rw [Nat.add_mod_right]
    exact ⟨t, (runSteps_succ _ hu).trans ((runSteps_succ _ hv).trans ((runSteps_succ _ hw).trans hrun)), hs⟩

/-- Settles O19: `syncRun_state`. -/
theorem syncRunLocksModThree : Obligations.SyncRunLocksModThree := by
  unfold Obligations.SyncRunLocksModThree
  intro n s rest ha hp hs hl
  exact syncRun_state rest n s ⟨ha, hp, hs, hl⟩

/-! ### A frame taken byte by byte (R134 (b)) -/

/-- The phase and the decoder registers once these bytes, the beginning or the whole of a frame for this device, have been
taken from AwaitSync1 on (R122 to R129). -/
inductive State.Session (s : State) : List Byte → Prop
  | awaitSync1 (hp : s.seq.phase = .idle) (hs : s.dec.state = .awaitSync1) : Session s []
  | awaitSync2 (hp : s.seq.phase = .idle) (hs : s.dec.state = .awaitSync2) : Session s [0xFF]
  | awaitId (hp : s.seq.phase = .idle) (hs : s.dec.state = .awaitId) : Session s [0xFF, 0xFF]
  | awaitLength (hp : s.seq.phase = .idle) (hs : s.dec.state = .awaitLength) (hacc : s.dec.acc = 0x01) :
      Session s [0xFF, 0xFF, 0x01]
  | accumulatePayload (part : List Byte) (hp : s.seq.phase = .idle) (hs : s.dec.state = .accumulatePayload)
      (hcount : s.dec.count.toNat = part.length) (hmore : part.length < s.dec.lenReg.toNat)
      (hacc : s.dec.acc = sum8 (0x01 :: s.dec.lenReg :: part)) : Session s (0xFF :: 0xFF :: 0x01 :: s.dec.lenReg :: part)
  | done (body : List Byte) (hp : s.seq.phase = .validate) (hs : s.dec.state = .done)
      (hfull : body.length = s.dec.lenReg.toNat) (hacc : s.dec.acc = sum8 (0x01 :: s.dec.lenReg :: body.dropLast)) :
      Session s (0xFF :: 0xFF :: 0x01 :: s.dec.lenReg :: body)

/-- The block has taken these bytes of a frame: they stand in `rx_buf`, and the session says so. -/
structure State.Holds (s : State) (taken : List Byte) : Prop where
  canonical : s.rxBuf.wf = true
  stored : s.rxBuf.slice 0 taken.length = taken
  session : s.Session taken

/-- A run of one step or more begins with a step. -/
theorem step_of_runSteps_succ {n : Nat} {s t : State} (h : runSteps (n + 1) s = .next t) :
    ∃ u, step s = .next u ∧ runSteps n u = .next t := by
  rw [runSteps] at h
  cases hs : step s with
  | next u => rw [hs] at h; exact ⟨u, rfl, h⟩
  | fault r => rw [hs] at h; cases h
  | refused r => rw [hs] at h; cases h

section Frame

variable {s t : State} {taken post body rest : List Byte} {b len : Byte}

theorem State.Session.congr (h : s.Session taken) (hseq : t.seq = s.seq) (hdec : t.dec = s.dec) : t.Session taken := by
  cases h with
  | awaitSync1 hp hs => exact .awaitSync1 (by rw [hseq, hp]) (by rw [hdec, hs])
  | awaitSync2 hp hs => exact .awaitSync2 (by rw [hseq, hp]) (by rw [hdec, hs])
  | awaitId hp hs => exact .awaitId (by rw [hseq, hp]) (by rw [hdec, hs])
  | awaitLength hp hs hacc => exact .awaitLength (by rw [hseq, hp]) (by rw [hdec, hs]) (by rw [hdec, hacc])
  | accumulatePayload part hp hs hcount hmore hacc =>
    rw [← hdec] at *
    exact .accumulatePayload part (by rw [hseq, hp]) hs hcount hmore hacc
  | done body hp hs hfull hacc =>
    rw [← hdec] at *
    exact .done body (by rw [hseq, hp]) hs hfull hacc

theorem State.Holds.congr (h : s.Holds taken) (hseq : t.seq = s.seq) (hdec : t.dec = s.dec) (hrx : t.rxBuf = s.rxBuf) :
    t.Holds taken :=
  ⟨by rw [hrx]; exact h.canonical, by rw [hrx]; exact h.stored, h.session.congr hseq hdec⟩

/-- A byte stored right behind the bytes taken so far is taken too. -/
theorem State.Holds.snoc (h : s.Holds taken) (hrx : t.rxBuf = s.rxBuf.write taken.length b)
    (hsession : t.Session (taken ++ [b])) : t.Holds (taken ++ [b]) where
  canonical := by rw [hrx]; exact Memory.wf_write _ _ h.canonical
  stored := by
    rw [hrx, List.length_append, List.length_singleton,
      Memory.slice_write_snoc b h.canonical (Nat.zero_add _).symm, h.stored]
  session := hsession

/-- Before the last byte of a frame the block is in IDLE. -/
theorem State.Holds.idle (h : s.Holds taken) (hbody : body.length = len.toNat)
    (hf : taken ++ b :: post = 0xFF :: 0xFF :: 0x01 :: len :: body) : s.seq.phase = .idle ∧ s.dec.state ≠ .done := by
  cases h.session with
  | awaitSync1 hp hs => exact ⟨hp, by simp [hs]⟩
  | awaitSync2 hp hs => exact ⟨hp, by simp [hs]⟩
  | awaitId hp hs => exact ⟨hp, by simp [hs]⟩
  | awaitLength hp hs => exact ⟨hp, by simp [hs]⟩
  | accumulatePayload part hp hs => exact ⟨hp, by simp [hs]⟩
  | done part _ _ hfull =>
    obtain ⟨rfl, rfl⟩ : s.dec.lenReg = len ∧ part ++ b :: post = body := by simpa using hf
    simp [hfull] at hbody

/-- A block that has taken a whole frame is in Done and VALIDATE. -/
theorem State.Holds.whole (h : s.Holds (0xFF :: 0xFF :: 0x01 :: len :: body)) (hbody : body.length = len.toNat) :
    s.seq.phase = .validate ∧ s.dec.state = .done ∧ s.dec.lenReg = len ∧
      s.rxBuf.slice 0 (len.toNat + 4) = 0xFF :: 0xFF :: 0x01 :: len :: body ∧
      s.dec.acc = sum8 (0x01 :: len :: body.dropLast) := by
  have hstored := h.stored
  cases h.session with
  | accumulatePayload part _ _ _ hmore => exact absurd hbody hmore.ne
  | done body hp hs _ hacc => exact ⟨hp, hs, rfl, by rw [← hbody]; exact hstored, hacc⟩

/-- A body byte that is not the last one is taken and summed; the last one is taken and ends the frame (R128). -/
theorem byteAccumulate_holds {part : List Byte} (h : s.Holds (0xFF :: 0xFF :: 0x01 :: s.dec.lenReg :: part))
    (hp : s.seq.phase = .idle) (hs : s.dec.state = .accumulatePayload) (hcount : s.dec.count.toNat = part.length)
    (hmore : part.length < s.dec.lenReg.toNat) (hacc : s.dec.acc = sum8 (0x01 :: s.dec.lenReg :: part))
    (hcap : s.dec.lenReg.toNat + 4 ≤ s.params.cap) :
    ∃ t, byteAccumulate b s = .next t ∧ t.Holds (0xFF :: 0xFF :: 0x01 :: s.dec.lenReg :: part ++ [b]) ∧
      t.events = s.events := by
  have hindex : 4 + s.dec.count.toNat = (0xFF :: 0xFF :: 0x01 :: s.dec.lenReg :: part).length := by
    simp only [List.length_cons]; omega
  by_cases hlast : s.dec.count.toNat + 1 = s.dec.lenReg.toNat
  · refine ⟨_, byteAccumulate_last hcap hlast, h.snoc (by rw [← hindex]; rfl) ?_, rfl⟩
    rw [State.takeBodyByte_last b hlast.ge]
    exact .done (part ++ [b]) rfl rfl (by simpa [hcount] using hlast) (by simpa using hacc)
  · have hnext : s.dec.count.toNat + 1 < s.dec.lenReg.toNat := by omega
    refine ⟨_, byteAccumulate_more hcap hnext, h.snoc (by rw [← hindex]; rfl) ?_, rfl⟩
    rw [State.takeBodyByte_more b hnext]
    refine .accumulatePayload (part ++ [b]) hp hs ?_ ?_ ?_
    · simpa [hcount] using count_add_one (s := s) (by omega)
    · simpa [hcount] using hnext
    · simp [hacc, BitVec.add_assoc]

/-- Each byte of a frame with an accepted length is taken, whatever the content (R122 to R128). -/
theorem byteStep_holds (h : s.Holds taken) (hlen : 2 ≤ len.toNat) (hcap : len.toNat + 4 ≤ s.params.cap)
    (hbody : body.length = len.toNat) (hf : taken ++ b :: post = 0xFF :: 0xFF :: 0x01 :: len :: body) :
    ∃ t, byteStep b s = .next t ∧ t.Holds (taken ++ [b]) ∧ t.events = s.events := by
  cases h.session with
  | awaitSync1 hp hs =>
    obtain ⟨rfl, -⟩ : b = 0xFF ∧ post = 0xFF :: 0x01 :: len :: body := by simpa using hf
    refine ⟨_, (byteStep_awaitSync1 hs).trans (congrArg _ (if_pos rfl)), h.snoc rfl ?_, rfl⟩
    exact .awaitSync2 hp rfl
  | awaitSync2 hp hs =>
    obtain ⟨rfl, -⟩ : b = 0xFF ∧ post = 0x01 :: len :: body := by simpa using hf
    refine ⟨_, (byteStep_awaitSync2 hs).trans (congrArg _ (if_pos rfl)), h.snoc rfl ?_, rfl⟩
    exact .awaitId hp rfl
  | awaitId hp hs =>
    obtain ⟨rfl, -⟩ : b = 0x01 ∧ post = len :: body := by simpa using hf
    obtain ⟨_, e⟩ := (byteAwaitId_cases 0x01 s).resolve_left fun hne => hne.1 rfl
    refine ⟨_, (byteStep_awaitId hs).trans (congrArg _ e), h.snoc rfl ?_, rfl⟩
    exact .awaitLength hp rfl rfl
  | awaitLength hp hs hacc =>
    obtain ⟨rfl, -⟩ : b = len ∧ post = body := by simpa using hf
    refine ⟨_, (byteStep_awaitLength hs).trans (congrArg _ (byteAwaitLength_accepted hlen hcap)), h.snoc rfl ?_, rfl⟩
    exact .accumulatePayload (s := s.takeLength b) [] hp rfl rfl (Nat.zero_lt_two.trans_le hlen)
      (by simp [hacc])
  | accumulatePayload part hp hs hcount hmore hacc =>
    obtain ⟨rfl, -⟩ : s.dec.lenReg = len ∧ part ++ b :: post = body := by simpa using hf
    rw [byteStep_accumulatePayload hs]
    exact byteAccumulate_holds h hp hs hcount hmore hacc hcap
  | done part hp hs => exact absurd hs (h.idle hbody hf).2

/-- With only the core moving, the bytes of a frame are taken one by one. -/
theorem run_alone_holds {bs : List Byte} (hlen : 2 ≤ len.toNat) (hbody : body.length = len.toNat)
    (hf : taken ++ (bs ++ post) = 0xFF :: 0xFF :: 0x01 :: len :: body) (h : s.Holds taken) (ha : s.alone)
    (hcap : len.toNat + 4 ≤ s.params.cap) (hl : s.env.rxLine = bs ++ rest) :
    ∃ t, runSteps bs.length s = .next t ∧ t.Holds (taken ++ bs) ∧ t.env.rxLine = rest ∧ t.events = s.events ∧
      t.sent = s.sent ∧ t.reg = s.reg := by
  induction bs generalizing taken s with
  | nil => exact ⟨s, rfl, by rwa [List.append_nil], hl, rfl, rfl, rfl⟩
  | cons b bs ih =>
    obtain ⟨hp, hd⟩ := h.idle hbody hf
    obtain ⟨u, hbyte, hu, hevents⟩ :=
      byteStep_holds (s := s.tookByte (bs ++ rest)) (h.congr rfl rfl rfl) hlen hcap hbody hf
    obtain ⟨hparams, _, hreg, henv, hsent, _⟩ := byteStep_frame hbyte
    have hstep : step s = .next u := (offers.step (offers_of_alone ha hp hl) hd).trans hbyte
    obtain ⟨t, hrun, ht, hline, hevents', hsent', hreg'⟩ := ih (by simpa using hf) hu (alone_of_step ha hstep)
      (by rw [hparams]; exact hcap) (by rw [henv]; rfl)
    exact ⟨t, (runSteps_succ _ hstep).trans hrun, by simpa using ht, hline, hevents'.trans hevents,
      hsent'.trans hsent, hreg'.trans hreg⟩

/-- Everything a turn other than a timeout or a reset can do while a frame is being received: its next byte is taken, or
the waiting bytes grow. -/
theorem step_holds (hlen : 2 ≤ len.toNat) (hbody : body.length = len.toNat)
    (hf : taken ++ b :: post = 0xFF :: 0xFF :: 0x01 :: len :: body) (h : s.Holds taken)
    (hcap : len.toNat + 4 ≤ s.params.cap) (hl : ∀ c line, s.env.rxLine = c :: line → c = b)
    (htimeout : s.nextTurn ≠ .timeout) (hreset : s.nextTurn ≠ .reset) (hs : step s = .next t) :
    t.params = s.params ∧ t.events = s.events ∧ t.sent = s.sent ∧
      ((t.Holds taken ∧ t.env.rxLine = s.env.rxLine ++ s.nextTurn.offered) ∨
        (t.Holds (taken ++ [b]) ∧ s.env.rxLine = b :: t.env.rxLine ∧ s.nextTurn.offered = [])) := by
  have hwait : s.beginStep.Holds taken := h.congr rfl rfl rfl
  obtain ⟨hp, _⟩ := h.idle hbody hf
  rcases step_cases hs with
    ⟨hu, hc⟩ | ⟨c, hu, rfl⟩ | ⟨_, hu, rfl⟩ | ⟨hu, _⟩ | ⟨r, hu, rfl⟩ | ⟨_, hu, rfl⟩ | ⟨_, hu, rfl⟩ | ⟨hu, _⟩ <;> rw [hu]
  · rw [coreStep_idle (s := s.beginStep) hp] at hc
    rcases idleStep_cases hc with rfl | ⟨c, line, hline, _, hbyte⟩
    · exact ⟨rfl, rfl, rfl, .inl ⟨hwait, (List.append_nil _).symm⟩⟩
    · obtain rfl : c = b := hl c line hline
      obtain ⟨u, hu, hholds, hevents⟩ :=
        byteStep_holds (s := s.beginStep.popRx) (hwait.congr rfl rfl rfl) hlen hcap hbody hf
      obtain rfl : u = t := by simpa [hu] using hbyte
      obtain ⟨hparams, _, _, henv, hsent, _⟩ := byteStep_frame hu
      have hline' : s.env.rxLine = c :: line := hline
      exact ⟨hparams, hevents, hsent, .inr ⟨hholds, by simp [henv, hline'], rfl⟩⟩
  · exact ⟨rfl, rfl, rfl, .inl ⟨hwait.congr rfl rfl rfl, rfl⟩⟩
  · exact ⟨rfl, rfl, rfl, .inl ⟨hwait.congr rfl rfl rfl, (List.append_nil _).symm⟩⟩
  · exact absurd hu htimeout
  · obtain ⟨hparams, hdec, hrx, hseq, _, henv, _, hevents, hsent⟩ := busAccess_frame s.beginStep r
    exact ⟨hparams, hevents, hsent, .inl ⟨hwait.congr hseq hdec hrx, by rw [henv]; exact (List.append_nil _).symm⟩⟩
  · exact ⟨rfl, rfl, rfl, .inl ⟨hwait.congr rfl rfl rfl, (List.append_nil _).symm⟩⟩
  · exact ⟨rfl, rfl, rfl, .inl ⟨hwait.congr rfl rfl rfl, (List.append_nil _).symm⟩⟩
  · exact absurd hu hreset

/-- A state that holds the whole frame is passed within `n` steps, with the bytes `rest` behind the frame not yet taken, no
outcome and nothing sent. -/
def State.passesFrame (s : State) (n : Nat) (frame rest : List Byte) : Prop :=
  ∃ m u, m ≤ n ∧ runSteps m s = .next u ∧ u.Holds frame ∧ u.env.rxLine ++ u.env.offeredIn (n - m) = rest ∧
    u.events = s.events ∧ u.sent = s.sent

theorem passesFrame_of_step {n : Nat} {frame : List Byte} (hs : step s = .next t) (hevents : t.events = s.events)
    (hsent : t.sent = s.sent) (h : t.passesFrame n frame rest) : s.passesFrame (n + 1) frame rest := by
  obtain ⟨m, u, hm, hrun, hholds, hrest, hevents', hsent'⟩ := h
  exact ⟨m + 1, u, Nat.succ_le_succ hm, (runSteps_succ m hs).trans hrun, hholds, by rwa [Nat.add_sub_add_right],
    hevents'.trans hevents, hsent'.trans hsent⟩

/-- A run that takes every byte of a frame, whatever other turns stand between, passes the state that holds it whole. -/
theorem run_passesFrame {n : Nat} (hlen : 2 ≤ len.toNat) (hbody : body.length = len.toNat)
    (hf : taken ++ post = 0xFF :: 0xFF :: 0x01 :: len :: body) (h : s.Holds taken)
    (hcap : len.toNat + 4 ≤ s.params.cap)
    (hturns : ∀ m, m < n → s.env.turnAt m ≠ .timeout ∧ s.env.turnAt m ≠ .reset)
    (hl : s.env.rxLine ++ s.env.offeredIn n = post ++ rest) (hrun : runSteps n s = .next t)
    (hleft : t.env.rxLine.length ≤ rest.length) :
    s.passesFrame n (0xFF :: 0xFF :: 0x01 :: len :: body) rest := by
  induction n generalizing s taken post with
  | zero =>
    cases hrun
    have hpost : post = [] := by
      have hcount := congrArg List.length hl
      simp only [Env.offeredIn, List.length_append, List.length_nil] at hcount
      exact List.eq_nil_of_length_eq_zero (by omega)
    subst hpost
    exact ⟨0, t, le_rfl, rfl, by rwa [← hf, List.append_nil], hl, rfl, rfl⟩
  | succ n ih =>
    cases post with
    | nil => exact ⟨0, s, Nat.zero_le _, rfl, by rwa [← hf, List.append_nil], hl, rfl, rfl⟩
    | cons b post =>
      obtain ⟨v, hv, hrun⟩ := step_of_runSteps_succ hrun
      have hnext : ∀ c line, s.env.rxLine = c :: line → c = b := fun c line hc => by
        rw [hc] at hl
        exact (List.cons.inj hl).1
      obtain ⟨htimeout, hreset⟩ := hturns 0 n.succ_pos
      obtain ⟨hparams, hevents, hsent, hmove⟩ := step_holds hlen hbody hf h hcap hnext htimeout hreset hv
      have hturns' : ∀ m, m < n → v.env.turnAt m ≠ .timeout ∧ v.env.turnAt m ≠ .reset := fun m hm => by
        rw [turnAt_of_step hv]
        exact hturns (m + 1) (by omega)
      rw [offeredIn_of_step hv] at hl
      rw [← hparams] at hcap
      refine passesFrame_of_step hv hevents hsent ?_
      rcases hmove with ⟨hwait, hline⟩ | ⟨htook, hline, hnone⟩
      · exact ih hf hwait hcap hturns' (by rw [hline, List.append_assoc, hl]) hrun
      · rw [hline, hnone] at hl
        exact ih (by simpa using hf) htook hcap hturns' (List.cons.inj hl).2 hrun

end Frame

/-- Settles O18: after `m` bytes the block holds the first `m` bytes of the frame, so it is in IDLE before the last and in
Done after it. -/
theorem frameReachesDone : Obligations.FrameReachesDone := by
  unfold Obligations.FrameReachesDone
  intro s len body rest ha hp hs hwf hlen hcap hbody hl
  have h : s.Holds [] := ⟨hwf, rfl, .awaitSync1 hp hs⟩
  have htotal : (0xFF :: 0xFF :: 0x01 :: len :: body).length = len.toNat + 4 := by simp [hbody]
  refine ⟨fun m hm => ?_, ?_⟩
  · have hsplit := List.take_append_drop m (0xFF :: 0xFF :: 0x01 :: len :: body)
    have hdrop := List.drop_eq_getElem_cons (htotal ▸ hm)
    obtain ⟨u, hrun, hu, _⟩ := run_alone_holds (taken := []) (rest := _ ++ rest) hlen hbody hsplit h ha hcap
      (by rw [← List.append_assoc, hsplit]; exact hl)
    rw [List.length_take_of_le (by omega)] at hrun
    rw [hdrop] at hsplit
    exact ⟨u, hrun, hu.idle hbody hsplit⟩
  · obtain ⟨t, hrun, ht, hline, hevents, hsent, hreg⟩ :=
      run_alone_holds (taken := []) (post := []) hlen hbody (List.append_nil _) h ha hcap hl
    obtain ⟨hphase, hdone, hreglen, hstored, hacc⟩ := ht.whole hbody
    rw [htotal] at hrun
    exact ⟨t, hrun, hphase, hdone, hreglen, hstored, hacc, hline, hevents, hsent, hreg⟩

/-- Settles O54: `run_passesFrame`, from AwaitSync1, where nothing of the frame is taken yet. -/
theorem splitFrameReachesDone : Obligations.SplitFrameReachesDone := by
  unfold Obligations.SplitFrameReachesDone
  intro n s t len body rest hp hs hwf hlen hcap hbody hturns hl hrun hleft
  obtain ⟨m, u, hm, hu, hholds, hrest, hevents, hsent⟩ :=
    run_passesFrame (taken := []) hlen hbody rfl ⟨hwf, rfl, .awaitSync1 hp hs⟩ hcap hturns hl hrun hleft
  obtain ⟨hphase, hdone, hreglen, hstored, hacc⟩ := hholds.whole hbody
  exact ⟨m, u, hm, hu, hphase, hdone, hreglen, hstored, hacc, hrest, hevents, hsent⟩

/-! ### How soon the decoder scans again (R134 (d) as the step rules bound it, log 25) -/

/-- The most bytes the decoder takes from here before it is back in AwaitSync1 or hands over a frame. -/
def State.scanBound (s : State) : Nat :=
  match s.dec.state with
  | .awaitSync1 | .done => 0
  | .awaitSync2 => s.params.cap - 1
  | .awaitId => s.params.cap - 2
  | .awaitLength => s.params.cap - 3
  | .accumulatePayload => s.dec.lenReg.toNat - s.dec.count.toNat

section ScanBound

variable {s t : State} {b : Byte}

theorem scanBound_awaitSync2 (h : s.dec.state = .awaitSync2) : s.scanBound = s.params.cap - 1 := by
  unfold State.scanBound; rw [h]

theorem scanBound_awaitId (h : s.dec.state = .awaitId) : s.scanBound = s.params.cap - 2 := by
  unfold State.scanBound; rw [h]

theorem scanBound_awaitLength (h : s.dec.state = .awaitLength) : s.scanBound = s.params.cap - 3 := by
  unfold State.scanBound; rw [h]

theorem scanBound_accumulatePayload (h : s.dec.state = .accumulatePayload) :
    s.scanBound = s.dec.lenReg.toNat - s.dec.count.toNat := by
  unfold State.scanBound; rw [h]

/-- Outside AwaitSync1 and Done at least one byte is still to come. -/
theorem State.Inv.scanBound_pos (i : s.Inv) (h1 : s.dec.state ≠ .awaitSync1) (hd : s.dec.state ≠ .done) :
    0 < s.scanBound := by
  obtain ⟨hcap, _⟩ := i.capRange
  cases hs : s.dec.state with
  | awaitSync1 => exact absurd hs h1
  | awaitSync2 => rw [scanBound_awaitSync2 hs]; omega
  | awaitId => rw [scanBound_awaitId hs]; omega
  | awaitLength => rw [scanBound_awaitLength hs]; omega
  | accumulatePayload => rw [scanBound_accumulatePayload hs]; exact Nat.sub_pos_of_lt (i.countLt hs)
  | done => exact absurd hs hd

/-- Under the invariant no byte step stops the machine: the body never leaves `rx_buf` (R61). -/
theorem State.Inv.byteStep_next (i : s.Inv) (b : Byte) : ∃ t, byteStep b s = .next t := by
  cases hs : s.dec.state with
  | awaitSync1 => exact ⟨_, byteStep_awaitSync1 hs⟩
  | awaitSync2 => exact ⟨_, byteStep_awaitSync2 hs⟩
  | awaitId => exact ⟨_, byteStep_awaitId hs⟩
  | awaitLength => exact ⟨_, byteStep_awaitLength hs⟩
  | accumulatePayload =>
    obtain ⟨_, hcap⟩ := i.lengthRange (.inl hs)
    rw [byteStep_accumulatePayload hs]
    rcases (Nat.succ_le_of_lt (i.countLt hs)).lt_or_eq with hmore | hlast
    · exact ⟨_, byteAccumulate_more hcap hmore⟩
    · exact ⟨_, byteAccumulate_last hcap hlast⟩
  | done => exact ⟨s, by unfold byteStep; rw [hs]⟩

theorem State.Inv.idleStep_next (i : s.Inv) : ∃ t, idleStep s = .next t := by
  cases hl : s.env.rxLine with
  | nil => exact ⟨s, idleStep_nil hl⟩
  | cons b rest =>
    by_cases hd : s.dec.state = .done
    · exact ⟨s, by unfold idleStep; rw [hl]; exact if_pos ((isDone_iff s).mpr hd)⟩
    · rw [idleStep_cons hl hd]
      exact State.Inv.byteStep_next (s := s.popRx) (i.congr rfl rfl rfl rfl rfl rfl) b

/-- A byte step past AwaitSync1 goes back there, hands over a frame, or leaves fewer bytes to come. -/
theorem State.Inv.byteStep_scanBound (i : s.Inv) (h1 : s.dec.state ≠ .awaitSync1) (hd : s.dec.state ≠ .done)
    (h : byteStep b s = .next t) :
    t.dec.state = .awaitSync1 ∨ t.seq.phase = .validate ∨ (t.seq = s.seq ∧ t.scanBound < s.scanBound) := by
  obtain ⟨hcap, _⟩ := i.capRange
  rcases byteStep_cases h with ⟨hs, _⟩ | ⟨hs, rfl⟩ | ⟨hs, rfl⟩ | ⟨hs, rfl⟩ | ⟨hs, h⟩ | ⟨hs, _⟩
  · exact absurd hs h1
  · rcases byteAwaitSync2_cases b s with ⟨_, e⟩ | ⟨_, e⟩ <;> rw [e]
    · refine .inr (.inr ⟨rfl, ?_⟩)
      rw [scanBound_awaitSync2 hs, scanBound_awaitId rfl]
      exact Nat.sub_lt_sub_left (show 1 < s.params.cap by omega) (by decide)
    · exact .inl rfl
  · rcases byteAwaitId_cases b s with ⟨_, e⟩ | ⟨_, e⟩ <;> rw [e]
    · exact .inl rfl
    · refine .inr (.inr ⟨rfl, ?_⟩)
      rw [scanBound_awaitId hs, scanBound_awaitLength rfl]
      exact Nat.sub_lt_sub_left (show 2 < s.params.cap by omega) (by decide)
  · rcases byteAwaitLength_cases b s with ⟨_, e⟩ | ⟨_, e⟩ | ⟨_, hfits, e⟩ <;> rw [e]
    · exact .inl rfl
    · exact .inl rfl
    · refine .inr (.inr ⟨rfl, ?_⟩)
      rw [scanBound_awaitLength hs, scanBound_accumulatePayload rfl]
      change b.toNat - 0 < s.params.cap - 3
      omega
  · have hlt := i.countLt hs
    have hsucc := i.count_succ hs
    obtain ⟨_, ⟨_, rfl⟩ | ⟨_, rfl⟩⟩ := byteAccumulate_cases h
    · exact .inr (.inl rfl)
    · refine .inr (.inr ⟨rfl, ?_⟩)
      rw [scanBound_accumulatePayload hs, scanBound_accumulatePayload (s := s.takeBodyByte b) hs]
      change s.dec.lenReg.toNat - (s.dec.count + 1).toNat < _
      omega
  · exact absurd hs hd

/-- With only the core moving and that many bytes waiting, the decoder scans again or has handed over a frame. -/
theorem State.Inv.run_scanBound (i : s.Inv) (hp : s.seq.phase = .idle) (ha : s.alone)
    (hl : s.scanBound ≤ s.env.rxLine.length) :
    ∃ n t, n ≤ s.scanBound ∧ runSteps n s = .next t ∧ (t.dec.state = .awaitSync1 ∨ t.seq.phase = .validate) := by
  induction hn : s.scanBound using Nat.strong_induction_on generalizing s with
  | h n ih =>
    subst hn
    by_cases h1 : s.dec.state = .awaitSync1
    · exact ⟨0, s, Nat.zero_le _, rfl, .inl h1⟩
    have hd := i.idleIff.mp hp
    have hpos := i.scanBound_pos h1 hd
    cases hline : s.env.rxLine with
    | nil => rw [hline] at hl; exact absurd hl (Nat.not_le.mpr hpos)
    | cons b rest =>
      have ib : (s.tookByte rest).Inv := i.congr rfl rfl rfl rfl rfl rfl
      obtain ⟨u, hbyte⟩ := ib.byteStep_next b
      have hstep : step s = .next u := (offers.step (offers_of_alone ha hp hline) hd).trans hbyte
      have hrun := runSteps_succ 0 hstep
      rcases ib.byteStep_scanBound h1 hd hbyte with hscan | hval | ⟨hseq, hlt⟩
      · exact ⟨1, u, hpos, hrun, .inl hscan⟩
      · exact ⟨1, u, hpos, hrun, .inr hval⟩
      · obtain ⟨_, _, _, henv, _⟩ := byteStep_frame hbyte
        have hlt' : u.scanBound < s.scanBound := hlt
        have hwait : u.scanBound ≤ u.env.rxLine.length := by
          rw [henv, State.tookByte_rxLine]
          rw [hline, List.length_cons] at hl
          omega
        obtain ⟨m, t, hm, hrun, ht⟩ :=
          ih _ hlt' (step_inv i hstep) (by rw [hseq]; exact hp) (alone_of_step ha hstep) hwait rfl
        exact ⟨m + 1, t, by omega, (runSteps_succ m hstep).trans hrun, ht⟩

/-- A timeout in IDLE leaves the decoder in AwaitSync1 (R131). -/
theorem timeoutEffect_scans (h : s.dec.state ≠ .done) : (timeoutEffect s).dec.state = .awaitSync1 := by
  unfold timeoutEffect
  split
  · assumption
  · rfl
  · rfl
  · rfl
  · rfl
  · contradiction

/-- The idle core stays in IDLE or hands over a frame. -/
theorem idleStep_phase (h : idleStep s = .next t) : t.seq.phase = s.seq.phase ∨ t.seq.phase = .validate := by
  rcases idleStep_cases h with rfl | ⟨_, _, _, _, hb⟩
  · exact .inl rfl
  · obtain ⟨_, _, _, _, _, _, _, hseq | ⟨hseq, _⟩, _⟩ := byteStep_frame hb
    · exact .inl (by rw [hseq]; rfl)
    · exact .inr (by rw [hseq])

theorem State.Inv.timeoutStep_scans (i : s.Inv) (hp : s.seq.phase = .idle) :
    ∃ t, timeoutStep s = .next t ∧ (t.dec.state = .awaitSync1 ∨ t.seq.phase = .validate) := by
  obtain ⟨u, hu⟩ := i.idleStep_next
  refine ⟨_, timeoutStep_idle hp hu, ?_⟩
  rw [timeoutIfIdle_eq]
  by_cases hidle : u.seq.phase = .idle
  · rw [if_pos hidle]
    exact .inl (timeoutEffect_scans ((idleStep_inv i hu).idleIff.mp hidle))
  · rw [if_neg hidle]
    exact .inr ((idleStep_phase hu).resolve_left fun h => hidle (h.trans hp))

end ScanBound

/-- Settles O56: each byte takes the decoder back to AwaitSync1, ends the frame or lowers the bound; a timeout takes it back
at once. -/
theorem returnsToScanning : Obligations.ReturnsToScanning := by
  unfold Obligations.ReturnsToScanning
  intro s i hp bound
  have hbound : s.scanBound = bound := rfl
  rw [← hbound]
  refine ⟨fun ha hl => i.run_scanBound hp ha hl, fun hturn => ?_⟩
  rw [step_of_turn hturn]
  exact State.Inv.timeoutStep_scans (s := s.beginStep) (i.congr rfl rfl rfl rfl rfl rfl) hp

end Sys2Proof.Machine
end

section
/-! PROOFS. The family of 42_dispatcher.md: what the two instructions do (R162 to R170), which instruction a VALIDATE step
runs (R160, R161), and a control frame's way into the register map (R172). -/

namespace Sys2Proof.Machine

/-! ### Dispatch of a control frame's goals (R165 to R167) -/

/-- `admin_enable` chooses between applying and not applying; the rest of an accepted frame is the same (R167). -/
theorem acceptGoals_eq (g : Vector Half 12) (s : State) :
    acceptGoals g s = s.acceptControl (clampGoals g)
      (if s.env.adminEnable then .controlApplied else .controlNotApplied) (clampCount g)
      (if s.env.adminEnable then .write else .gather) := by
  unfold acceptGoals
  split <;> rfl

theorem dispatchGoals_accepted {g : Vector Half 12} {s : State}
    (h : s.params.policy = .clamp ∨ firstOutOfRange g = none) : dispatchGoals g s = acceptGoals g s := by
  unfold dispatchGoals
  split
  next k hpolicy hfirst => simp [hpolicy, hfirst] at h
  next => rfl

theorem dispatchGoals_rejected {g : Vector Half 12} {s : State} {k : Nat} (hpolicy : s.params.policy = .reject)
    (hfirst : firstOutOfRange g = some k) :
    dispatchGoals g s = s.failFrame .positionOutOfRange (BitVec.ofNat 8 k) := by
  unfold dispatchGoals
  rw [hpolicy, hfirst]

theorem exec_goals_accepted {g : Vector Half 12} {s : State}
    (h : s.params.policy = .clamp ∨ ∀ k : Fin 12, g[k] ≤ 1023) :
    exec (.instControl (.goals g)) s = .next (s.acceptControl (clampGoals g)
      (if s.env.adminEnable then .controlApplied else .controlNotApplied) (clampCount g)
      (if s.env.adminEnable then .write else .gather)) := by
  rw [← acceptGoals_eq, ← dispatchGoals_accepted (h.imp_right (firstOutOfRange_eq_none g).mpr)]
  rfl

/-- Settles O21: no goal is found out of range, or CLAMP does not ask, and the frame is accepted. -/
theorem controlAcceptedCompletes : Obligations.ControlAcceptedCompletes := by
  unfold Obligations.ControlAcceptedCompletes
  intro g s h
  rw [exec_goals_accepted h, clampGoals_eq, clampCount_eq]
  rfl

/-- Settles O22: the index reported is the first one the search finds. -/
theorem controlOutOfRangeRejected : Obligations.ControlOutOfRangeRejected := by
  unfold Obligations.ControlOutOfRangeRejected
  intro g s k hpolicy hk hless
  exact congrArg Host.Outcome.next (dispatchGoals_rejected hpolicy (firstOutOfRange_eq_some g k hk hless))

/-- Settles O23: the length is judged before any goal is looked at. -/
theorem controlWrongLengthCompletes : Obligations.ControlWrongLengthCompletes := by
  unfold Obligations.ControlWrongLengthCompletes
  intro p s
  rfl

/-- Settles O24: the payload is not an argument of the meaning. -/
theorem otherInstructionCompletes : Obligations.OtherInstructionCompletes := by
  unfold Obligations.OtherInstructionCompletes
  intro instr p s
  rfl

/-- Settles O25: an instruction fails its frame, which sets three sequencer registers, or accepts a control frame of twelve
goals, which sets all five and leaves for a phase other than CLEAR. -/
theorem instructionFrame : Obligations.InstructionFrame := by
  unfold Obligations.InstructionFrame
  intro i s t h
  rcases exec_cases i s with ⟨c, a, _, he⟩ | ⟨g, hi, ⟨_, he⟩ | ⟨_, he⟩⟩ <;>
    obtain rfl := Host.Outcome.next.inj (he.symm.trans h)
  · simp
  · simp [hi]
  · simp [hi]

/-! ### The instruction a VALIDATE step runs (R160, R161) -/

/-- A buffered frame past its two sync bytes: the bytes the checksum covers, and the checksum (R83). -/
theorem Memory.covered_of_slice_eq_cons {m : Memory} {n : Nat} {x y : Byte} {bs : List Byte}
    (h : m.slice 0 (n + 4) = x :: y :: bs) : m.slice 2 (n + 1) ++ [m.read (n + 3)] = bs := by
  rw [show n + 3 = 2 + (n + 1) by omega, ← Memory.slice_succ, ← Nat.zero_add 2, Memory.slice_drop,
    show 2 + (n + 1 + 1) = n + 4 by omega, h]
  rfl

/-- What a whole frame in a buffer says of the parts VALIDATE reads. -/
theorem Memory.parts_of_slice_eq_frame {m : Memory} {b : Byte} {p : List Byte}
    (h : m.slice 0 (p.length + 6) = frame b p) :
    m.read 4 = b ∧ m.slice 5 p.length = p ∧ m.read (p.length + 5) = compute (m.slice 2 (p.length + 3)) := by
  have hchecked : m.slice 2 (p.length + 3) ++ [m.read (p.length + 5)] =
      covered Config.deviceId (BitVec.ofNat 8 (p.length + 2)) b p ++
        [compute (covered Config.deviceId (BitVec.ofNat 8 (p.length + 2)) b p)] :=
    Memory.covered_of_slice_eq_cons (n := p.length + 2) h
  obtain ⟨hcovered, hstored⟩ := List.append_inj' hchecked rfl
  have hbody : b :: p = m.read 4 :: m.slice 5 p.length := by
    have hsplit := m.slice_add 2 2 (1 + p.length)
    rw [show 2 + (1 + p.length) = p.length + 3 by omega, hcovered, Memory.slice_add] at hsplit
    exact List.append_inj_right (s₁ := [Config.deviceId, BitVec.ofNat 8 (p.length + 2)]) hsplit rfl
  obtain ⟨hinstr, hpayload⟩ := List.cons.inj hbody
  rw [hcovered]
  exact ⟨hinstr.symm, hpayload.symm, (List.cons.inj hstored).1⟩

theorem step_validate {s : State} (h : s.coreIn .validate) : step s = validateStep s.beginStep :=
  (coreIn.step h).trans (coreStep_validate (s := s.beginStep) h.2)

/-- Settles O26: accepted bytes are a frame, so its checksum matches the accumulator and its body is the instruction's. -/
theorem stepRunsDecodedInstruction : Obligations.StepRunsDecodedInstruction := by
  unfold Obligations.StepRunsDecodedInstruction
  intro s i h hdecode hacc
  obtain ⟨b, p, hfits, rfl, hframe⟩ := (decode_ok_iff _ _ i []).mp hdecode
  rw [List.append_nil] at hframe
  obtain ⟨_, hcap⟩ := (payloadFits_iff _ _).mp hfits
  have hlen : s.dec.lenReg.toNat = p.length + 2 := by
    have hcount := congrArg List.length hframe
    simp only [Memory.slice_length, frame, List.length_append, List.length_cons, List.length_nil] at hcount
    omega
  rw [hlen] at hframe hacc
  obtain ⟨hinstr, hpayload, hstored⟩ := Memory.parts_of_slice_eq_frame hframe
  rw [compute, ← hacc] at hstored
  rw [step_validate h, validateStep_match (by simpa [hlen] using hcap) (by simpa [hlen] using hstored)]
  simp [hlen, hinstr, hpayload]

/-- Settles O27: the checksum is the first check of VALIDATE. -/
theorem checksumMismatchDropsFrame : Obligations.ChecksumMismatchDropsFrame := by
  unfold Obligations.ChecksumMismatchDropsFrame
  intro s h hcap hmismatch
  exact (step_validate h).trans (validateStep_mismatch (s := s.beginStep) hcap hmismatch)

/-! ### A control frame's way into the register map (R172) -/

section RoundTrip

variable {s t : State}

/-- The core moves neither the parameters nor `admin_enable` (R43). -/
theorem coreStep_settings (h : coreStep s = .next t) :
    t.params = s.params ∧ t.env.adminEnable = s.env.adminEnable := by
  rcases coreStep_cases h with ⟨_, h⟩ | ⟨_, h⟩ | ⟨_, h⟩ | ⟨_, h⟩ | ⟨_, rfl⟩ | ⟨_, h⟩ | ⟨_, rfl⟩
  · rcases idleStep_cases h with rfl | ⟨_, _, _, _, hb⟩
    · exact ⟨rfl, rfl⟩
    · obtain ⟨hparams, _, _, henv, _⟩ := byteStep_frame hb
      exact ⟨hparams, by rw [henv]; rfl⟩
  · rcases validateStep_cases h with ⟨_, _, _, rfl⟩ | ⟨_, _, ⟨_, rfl⟩ | ⟨_, rfl⟩⟩ <;> exact ⟨rfl, rfl⟩
  · obtain ⟨_, _, ⟨_, rfl⟩ | ⟨_, rfl⟩⟩ := writeStep_cases h <;> exact ⟨rfl, rfl⟩
  · obtain ⟨hk, ht⟩ := gatherStep_cases h
    obtain ⟨_, _, _, _, e⟩ := gatherField_cases s hk
    rcases ht with ⟨_, rfl⟩ | ⟨_, rfl⟩ <;> rcases e with e | e <;> rw [e] <;> exact ⟨rfl, rfl⟩
  · exact ⟨rfl, rfl⟩
  · obtain ⟨_, ⟨_, rfl⟩ | ⟨_, _, rfl⟩ | ⟨_, _, rfl⟩⟩ := emitStep_cases h <;> exact ⟨rfl, rfl⟩
  · cases ho : s.seq.outcome with
    | none => rw [clearStep_none ho]; exact ⟨rfl, rfl⟩
    | some c => rw [clearStep_some ho]; exact ⟨rfl, rfl⟩

/-- What a run of the core alone leaves: the turns to come, the parameters and `admin_enable`. -/
theorem runSteps_alone_settings {n : Nat} (ha : s.alone) (h : runSteps n s = .next t) :
    t.alone ∧ t.params = s.params ∧ t.env.adminEnable = s.env.adminEnable := by
  induction n generalizing s with
  | zero => cases h; exact ⟨ha, rfl, rfl⟩
  | succ n ih =>
    obtain ⟨u, hu, hrun⟩ := step_of_runSteps_succ h
    obtain ⟨halone, hparams, hadmin⟩ := ih (alone_of_step ha hu) hrun
    obtain ⟨hparams', hadmin'⟩ := coreStep_settings ((step_alone ha).symm.trans hu)
    exact ⟨halone, hparams.trans hparams', hadmin.trans hadmin'⟩

theorem step_write (h : s.coreIn .write) (k : Fin 12) (hk : s.seq.k.toNat = k.val) :
    step s = .next (if k.val < 11 then (s.beginStep.writeGoal k s.seq.goalStage[k]).nextK
      else (s.beginStep.writeGoal k s.seq.goalStage[k]).startPhase .gather) :=
  ((coreIn.step h).trans (coreStep_write (s := s.beginStep) h.2)).trans (writeStep_at (s := s.beginStep) k hk)

/-- The goals of the records below `n` are the staged ones (R192). -/
def State.wroteGoals (s : State) (n : Nat) : Prop :=
  ∀ j : Fin 12, j.val < n → s.reg[j].goalPosition = s.seq.goalStage[j]

theorem writeGoal_wroteGoals {k : Fin 12} (h : s.wroteGoals k.val) :
    (s.writeGoal k s.seq.goalStage[k]).wroteGoals (k.val + 1) := by
  intro j hj
  rw [writeGoal_getElem]
  split
  next hkj => subst hkj; rfl
  next hkj => exact h j (by omega)

/-- With only the core moving, the WRITE steps from step `k` on complete the goals (R192). -/
theorem run_writeSteps {n : Nat} {k : Fin 12} (ha : s.alone) (hp : s.seq.phase = .write) (hk : s.seq.k.toNat = k.val)
    (hn : k.val + n = 11) (h : s.wroteGoals k.val) :
    ∃ t, runSteps (n + 1) s = .next t ∧ t.seq.phase = .gather ∧
      ∀ j : Fin 12, t.reg[j].goalPosition = s.seq.goalStage[j] := by
  induction n generalizing s k with
  | zero =>
    have hstep := step_write ⟨alone.nextTurn ha, hp⟩ k hk
    rw [if_neg (by omega)] at hstep
    exact ⟨_, runSteps_succ 0 hstep, rfl, fun j => writeGoal_wroteGoals (s := s.beginStep) h j (by omega)⟩
  | succ n ih =>
    have hstep := step_write ⟨alone.nextTurn ha, hp⟩ k hk
    rw [if_pos (by omega)] at hstep
    have hnext : (s.seq.k + 1).toNat = k.val + 1 := by bv_omega
    obtain ⟨t, hrun, ht⟩ := ih (k := ⟨k.val + 1, by omega⟩) (alone_of_step ha hstep) hp hnext
      (show k.val + 1 + n = 11 by omega) (writeGoal_wroteGoals (s := s.beginStep) h)
    exact ⟨t, (runSteps_succ _ hstep).trans hrun, ht⟩

/-- The bytes of a control frame of twelve goals (R84): a length of 26, and a body of 26 bytes. -/
theorem encode_goals (g : Vector Half 12) :
    ∃ body : List Byte, body.length = 26 ∧ encode (.instControl (.goals g)) = 0xFF :: 0xFF :: 0x01 :: 0x1A :: body := by
  refine ⟨0x01 :: (payloadOfGoals g ++ [compute (covered Config.deviceId 0x1A 0x01 (payloadOfGoals g))]), by simp, ?_⟩
  simp [encode, frame, Instr.byte, Instr.payload]

/-- In Done and VALIDATE with the frame of a well-formed instruction in `rx_buf`, the step is that instruction's (R161). -/
theorem step_validate_encoded {i : Instr} {len : Byte} {body : List Byte} (h : s.coreIn .validate)
    (hwf : i.wf s.params.cap = true) (hi : encode i = 0xFF :: 0xFF :: 0x01 :: len :: body)
    (hlen : s.dec.lenReg = len) (hbody : body ≠ [])
    (hstored : s.rxBuf.slice 0 (len.toNat + 4) = 0xFF :: 0xFF :: 0x01 :: len :: body)
    (hacc : s.dec.acc = sum8 (0x01 :: len :: body.dropLast)) : step s = exec i s.beginStep := by
  subst hlen
  apply stepRunsDecodedInstruction s i h
  · rw [hstored, ← hi, ← List.append_nil (encode i)]
    exact decodeOfEncode _ i [] hwf
  · rw [hacc, ← List.dropLast_cons_of_ne_nil hbody, ← List.dropLast_cons_of_ne_nil (List.cons_ne_nil _ _),
      ← Memory.covered_of_slice_eq_cons hstored, List.dropLast_concat]

end RoundTrip

/-- Settles O38: the frame's bytes are taken, VALIDATE runs the instruction they encode, and twelve WRITE steps write what
it staged. -/
theorem controlRoundTrip : Obligations.ControlRoundTrip := by
  unfold Obligations.ControlRoundTrip
  intro s g rest ha hp hs hrx hparams hadmin hrange hl
  obtain ⟨body, hbody, hframe⟩ := encode_goals g
  have hcap : 30 ≤ s.params.cap := (of_decide_eq_true hparams).1
  rw [hframe] at hl
  obtain ⟨_, u, hu, hphase, _, hlen, hstored, hacc, _, _, _, _⟩ :=
    frameReachesDone s 0x1A body rest ha hp hs hrx (by decide) hcap hbody hl
  obtain ⟨hua, huparams, huadmin⟩ := runSteps_alone_settings ha hu
  have hwf : (Instr.instControl (.goals g)).wf u.params.cap = true :=
    (payloadFits_iff _ _).mpr ⟨by decide, by rw [huparams]; exact hcap⟩
  have hrange' : u.beginStep.params.policy = .clamp ∨ ∀ k : Fin 12, g[k] ≤ 1023 := by
    rw [State.beginStep_params, huparams]
    exact hrange
  have hadmin' : u.beginStep.env.adminEnable = true := huadmin.trans hadmin
  have hstep := step_validate_encoded ⟨alone.nextTurn hua, hphase⟩ hwf hframe hlen
    (List.ne_nil_of_length_eq_add_one hbody) hstored hacc
  rw [exec_goals_accepted hrange', hadmin'] at hstep
  obtain ⟨t, hrun, ht, hgoals⟩ := run_writeSteps (n := 11) (k := 0) (alone_of_step hua hstep) rfl rfl rfl
    (fun j hj => absurd hj j.val.not_lt_zero)
  refine ⟨t, (runSteps_add 30 13 hu).trans ((runSteps_succ 12 hstep).trans hrun), ht, fun k => ?_,
    fun k addr v => busWrite_goalPosition t addr v k⟩
  rw [hgoals k, State.acceptControl_seq, ← clampGoal_toNat]
  exact congrArg BitVec.toNat (clampGoals_getElem g k.val k.isLt)

end Sys2Proof.Machine
end

section
/-! PROOFS. The family of 43_reply_frame.md: each phase step (R192 to R197), the edges between the phases (R190), and
whole transactions, with a reply and without one (R199, R200, R86). -/

namespace Sys2Proof.Machine

/-! ### The phase steps as steps of the machine -/

section PhaseSteps

variable {s : State}

theorem step_gather (h : s.coreIn .gather) (hk : s.seq.k.toNat < 29) :
    step s = .next (if s.seq.k.toNat < 28 then (gatherField s.beginStep).nextK
      else (gatherField s.beginStep).setPhase .seal) :=
  ((coreIn.step h).trans (coreStep_gather (s := s.beginStep) h.2)).trans (if_pos hk)

theorem step_seal (h : s.coreIn .seal) : step s = .next (sealStep s.beginStep) :=
  (coreIn.step h).trans (coreStep_seal (s := s.beginStep) h.2)

theorem step_emit (h : s.coreIn .emit) : step s = emitStep s.beginStep :=
  (coreIn.step h).trans (coreStep_emit (s := s.beginStep) h.2)

/-- With `tx_ready = 1` EMIT step `k` sends `tx_buf[k]` (R196). -/
theorem step_emit_ready (h : s.coreIn .emit) (hk : s.seq.k.toNat < 74) (hr : s.env.txReady = true) :
    step s = .next (if s.seq.k.toNat < 73 then (s.beginStep.send s.txData).nextK
      else (s.beginStep.send s.txData).setPhase .clear) := by
  rw [step_emit h]
  split
  · exact emitStep_more (s := s.beginStep) ‹_› hr
  · exact emitStep_last (s := s.beginStep) (show s.seq.k.toNat = 73 by omega) hr

/-- CLEAR emits the outcome register and leaves the decoder session and the sequencer idle (R197). -/
theorem step_clear (h : s.coreIn .clear) {c : OutcomeCode} (hc : s.seq.outcome = some c) :
    step s = .next
      { s.beginStep with
        dec := Decoder.reset
        evt := some ⟨c, s.seq.arg⟩
        events := s.events ++ [⟨c, s.seq.arg⟩]
        seq := { s.seq with phase := .idle, k := 0, outcome := none, arg := 0 } } := by
  rw [coreIn.step h, coreStep_clear (s := s.beginStep) h.2, clearStep_some (s := s.beginStep) hc]
  rfl

/-- With only the core moving, a step begins by taking the one-step outputs back and changes nothing else. -/
theorem beginStep_eq_of_alone (h : s.alone) : s.beginStep = { s with evt := none, bRdata := none } := by
  unfold State.beginStep
  rw [Env.useTurn_alone h.1 h.2]

theorem step_clear_alone (ha : s.alone) (hp : s.seq.phase = .clear) {c : OutcomeCode} (hc : s.seq.outcome = some c) :
    step s = .next
      { s with
        dec := Decoder.reset
        evt := some ⟨c, s.seq.arg⟩
        bRdata := none
        events := s.events ++ [⟨c, s.seq.arg⟩]
        seq := { s.seq with phase := .idle, k := 0, outcome := none, arg := 0 } } := by
  rw [step_clear ⟨alone.nextTurn ha, hp⟩ hc, beginStep_eq_of_alone ha]

end PhaseSteps

/-- Settles O30: one port-A write, then `k` moves or GATHER starts. -/
theorem writeStepWritesOneGoal : Obligations.WriteStepWritesOneGoal := by
  unfold Obligations.WriteStepWritesOneGoal
  intro s k h hk
  rw [step_write h k hk]
  split <;> rfl

/-- A sensor read returns the next fixed draw, else a free one (R44). -/
theorem sensorValue_eq (s : State) (m : Sensor) :
    s.sensorValue m = s.env.sensorFeed.headD (Config.sensorDraw m s.draws) := by
  unfold State.sensorValue
  cases s.env.sensorFeed <;> rfl

theorem sensorOf_eq_getD (m : Fin 5) :
    sensorOf m.val = [Sensor.imuRoll, .imuPitch, .imuYaw, .pwrVoltage, .pwrCurrent].getD m.val .imuRoll := by
  revert m; decide

/-- Settles O31: one port-A read or one sensor read, stored byte by byte, then `k` moves or SEAL follows. -/
theorem gatherStepReadsOneField : Obligations.GatherStepReadsOneField := by
  unfold Obligations.GatherStepReadsOneField
  intro s h
  refine ⟨fun j hk => ?_, fun j hk => ?_, fun m hk => ?_⟩
  · rw [step_gather h (by omega), gatherField_position (s := s.beginStep) j hk,
      show 6 + 2 * j.val = 5 + 2 * j.val + 1 by omega]
    split <;> rfl
  · rw [step_gather h (by omega), gatherField_load (s := s.beginStep) j hk,
      show 30 + 2 * j.val = 29 + 2 * j.val + 1 by omega]
    split <;> rfl
  · rw [step_gather h (by omega), gatherField_sensor (s := s.beginStep) m.val hk, sensorValue_eq, sensorOf_eq_getD,
      show 54 + 4 * m.val = 53 + 4 * m.val + 1 by omega, show 55 + 4 * m.val = 53 + 4 * m.val + 1 + 1 by omega,
      show 56 + 4 * m.val = 53 + 4 * m.val + 1 + 1 + 1 by omega]
    split <;> rfl

/-- Storing consecutive bytes leaves every other address alone. -/
theorem Memory.read_storeBytes_outside {m : Memory} {a x : Nat} {bs : List Byte} (h : m.wf = true)
    (hx : x < a ∨ a + bs.length ≤ x) : (m.storeBytes a bs).read x = m.read x := by
  rw [Memory.read_storeBytes a x bs h, if_neg (by omega)]

/-- Bytes just stored are read back whole. -/
theorem Memory.slice_storeBytes_same {m : Memory} (a : Nat) (bs : List Byte) (h : m.wf = true) :
    (m.storeBytes a bs).slice a bs.length = bs := by
  simpa using Memory.slice_storeBytes (a := a) (n := 0) bs h

/-- Settles O32: the header stands before the bytes gathered and the checksum behind them, so each store leaves the
bytes of the other and those between. -/
theorem sealStepCompletesReply : Obligations.SealStepCompletesReply := by
  unfold Obligations.SealStepCompletesReply
  intro s h hwf
  have hwf' : (s.txBuf.storeBytes 0 replyHeader).wf = true := Memory.wf_storeBytes 0 replyHeader hwf
  have hheader : (s.txBuf.storeBytes 0 replyHeader).slice 0 5 = replyHeader := Memory.slice_storeBytes_same 0 _ hwf
  have hcovered : (s.txBuf.storeBytes 0 replyHeader).slice 2 71 = [0x01, 0x46, 0x00] ++ s.txBuf.slice 5 68 := by
    rw [Memory.slice_add _ 2 3 68, ← Nat.zero_add 2, Memory.slice_drop, hheader]
    congr 1
    exact Memory.slice_congr fun i _ => Memory.read_storeBytes_outside hwf (.inr (Nat.le_add_right 5 i))
  refine ⟨_, step_seal h, rfl, ?_, ?_, fun a ha ha' => ?_⟩
  · exact (Memory.slice_write_outside _ (by omega)).trans hheader
  · exact (Memory.read_write_same 73 _ hwf').trans (congrArg compute hcovered)
  · exact (Memory.read_write_ne _ ha').trans (Memory.read_storeBytes_outside hwf (.inr ha))

/-- Settles O33: with `tx_ready = 1` one byte is sent; with `tx_ready = 0` the port holds it. -/
theorem emitStepSendsOneByte : Obligations.EmitStepSendsOneByte := by
  unfold Obligations.EmitStepSendsOneByte
  intro s k h hk
  have hdata : s.txData = s.txBuf.read k.val := congrArg s.txBuf.read hk
  constructor
  · intro hr
    rw [step_emit_ready h (by omega) hr, hdata, hk]
    split <;> rfl
  · intro hr
    exact ⟨(step_emit h).trans (emitStep_wait (s := s.beginStep) (hk.trans_lt k.isLt) hr), decide_eq_true h.2, hdata⟩

/-- Settles O35: the invariant puts a transaction's outcome into the register, and CLEAR emits it. -/
theorem clearStepEmitsOutcome : Obligations.ClearStepEmitsOutcome := by
  unfold Obligations.ClearStepEmitsOutcome
  intro s i h
  have hout := i.outcomeSet
  rw [h.2] at hout
  obtain ⟨c, hc, hcode⟩ := Option.any_eq_true _ _ |>.mp hout
  refine ⟨c, ?_, _, hc, step_clear h hc, rfl, rfl, rfl, rfl⟩
  cases c <;> simp_all [transactionOutcome]

/-! ### The edges between the phases (R190) -/

section Edges

variable {s t : State}

theorem coreStep_phase (h : coreStep s = .next t) :
    t.seq.phase = s.seq.phase ∨ phaseEdge s.seq.phase t.seq.phase = true := by
  rcases coreStep_cases h with ⟨hp, h⟩ | ⟨hp, h⟩ | ⟨hp, h⟩ | ⟨hp, h⟩ | ⟨hp, rfl⟩ | ⟨hp, h⟩ | ⟨hp, rfl⟩
  · exact (idleStep_phase h).imp_right fun ht => by rw [hp, ht]; rfl
  · rcases validateStep_cases h with ⟨_, _, _, rfl⟩ | ⟨_, _, ⟨_, rfl⟩ | ⟨_, rfl⟩⟩ <;> exact .inr (by rw [hp]; rfl)
  · obtain ⟨_, _, ⟨_, rfl⟩ | ⟨_, rfl⟩⟩ := writeStep_cases h
    · exact .inl rfl
    · exact .inr (by rw [hp]; rfl)
  · obtain ⟨hk, ht⟩ := gatherStep_cases h
    obtain ⟨_, _, _, hseq, _⟩ := gatherField_frame s hk
    rcases ht with ⟨_, rfl⟩ | ⟨_, rfl⟩
    · exact .inl (by rw [State.nextK_seq, hseq])
    · exact .inr (by rw [hp]; rfl)
  · exact .inr (by rw [hp]; rfl)
  · obtain ⟨_, ⟨_, rfl⟩ | ⟨_, _, rfl⟩ | ⟨_, _, rfl⟩⟩ := emitStep_cases h
    · exact .inl rfl
    · exact .inl rfl
    · exact .inr (by rw [hp]; rfl)
  · exact .inr (by rw [hp]; rfl)

/-- A timeout moves the phase only by the byte step it comes with (log 11). -/
theorem timeoutStep_phase (h : timeoutStep s = .next t) :
    t.seq.phase = s.seq.phase ∨ (s.seq.phase = .idle ∧ t.seq.phase = .validate) := by
  rcases timeoutStep_cases h with ⟨_, rfl⟩ | ⟨hp, u, hu, rfl⟩
  · exact .inl rfl
  · obtain ⟨_, _, hseq, _⟩ := timeoutIfIdle_frame u
    rw [hseq]
    exact (idleStep_phase hu).imp_right fun ht => ⟨hp, ht⟩

end Edges

/-- Settles O44: of all turns, only the core's, a timeout's and a reset can move the sequencer. -/
theorem phaseMovesAlongEdges : Obligations.PhaseMovesAlongEdges := by
  unfold Obligations.PhaseMovesAlongEdges
  intro s t h hne
  rcases step_cases h with
    ⟨hc, h⟩ | ⟨_, _, rfl⟩ | ⟨_, _, rfl⟩ | ⟨hc, h⟩ | ⟨r, _, rfl⟩ | ⟨_, _, rfl⟩ | ⟨_, _, rfl⟩ | ⟨hc, rfl⟩
  · exact .inr (.inl ⟨hc, (coreStep_phase h).resolve_left hne⟩)
  · exact absurd rfl hne
  · exact absurd rfl hne
  · exact .inr (.inr ⟨hc, (timeoutStep_phase h).resolve_left hne⟩)
  · obtain ⟨_, _, _, hseq, _⟩ := busAccess_frame s.beginStep r
    exact absurd (congrArg Sequencer.phase hseq) hne
  · exact absurd rfl hne
  · exact absurd rfl hne
  · exact .inl ⟨hc, rfl⟩

/-! ### A transaction without a reply (R199) -/

section Failed

variable {s : State}

/-- What is wrong with a frame, in the order in which VALIDATE asks: its checksum, its instruction, its control
length. -/
def State.failure (s : State) : Event :=
  if s.rxBuf.read (s.dec.lenReg.toNat + 3) ≠ ~~~ s.dec.acc then
    ⟨.checksumMismatch, s.rxBuf.read (s.dec.lenReg.toNat + 3)⟩
  else if s.rxBuf.read 4 ≠ 0x01 then ⟨.unknownInstruction, s.rxBuf.read 4⟩
  else ⟨.invalidPayloadLength, s.dec.lenReg⟩

/-- VALIDATE fails a frame with one of the three causes by the first of them (R160, R163, R170). -/
theorem validateStep_failure (h2 : 2 ≤ s.dec.lenReg.toNat) (hcap : s.dec.lenReg.toNat + 4 ≤ s.params.cap)
    (hbad : s.rxBuf.read (s.dec.lenReg.toNat + 3) ≠ ~~~ s.dec.acc ∨ s.rxBuf.read 4 ≠ 0x01 ∨ s.dec.lenReg ≠ 26) :
    validateStep s = .next (s.failFrame s.failure.code s.failure.arg) := by
  unfold State.failure
  by_cases hsum : s.rxBuf.read (s.dec.lenReg.toNat + 3) = ~~~ s.dec.acc
  · rw [validateStep_match hcap hsum, if_neg (not_not.mpr hsum)]
    by_cases hinstr : s.rxBuf.read 4 = 0x01
    · have hlen : s.dec.lenReg ≠ 26 := (hbad.resolve_left (not_not.mpr hsum)).resolve_left (not_not.mpr hinstr)
      have hpayload : (s.rxBuf.slice 5 (s.dec.lenReg.toNat - 2)).length ≠ 24 := by
        rw [Memory.slice_length]
        bv_omega
      rw [if_neg (not_not.mpr hinstr), hinstr, instrOfBody_wrongLength hpayload]
      rfl
    · rw [if_pos hinstr, instrOfBody_other _ hinstr]
      rfl
  · rw [validateStep_mismatch hcap hsum, if_pos hsum]

end Failed

/-- Settles O37: VALIDATE fails the frame, and CLEAR emits the outcome it chose. -/
theorem failedTransactionSendsNothing : Obligations.FailedTransactionSendsNothing := by
  unfold Obligations.FailedTransactionSendsNothing
  intro s ha hp h2 hcap stored instr hbad
  have hstep := (step_validate ⟨alone.nextTurn ha, hp⟩).trans (validateStep_failure (s := s.beginStep) h2 hcap hbad)
  have hclear := step_clear_alone (alone_of_step ha hstep) rfl rfl
  refine ⟨_, (runSteps_succ 1 hstep).trans (runSteps_succ 0 hclear), rfl, rfl, rfl, rfl, rfl, rfl⟩

/-! ### A transaction with a reply (R199, R200, R86) -/

section Reply

variable {s t : State}

/-- A WRITE step changes no field but one goal (R192). -/
theorem writeGoal_only_goals (s : State) (k j : Fin 12) (v : Half) :
    (s.writeGoal k v).reg[j] = { s.reg[j] with goalPosition := (s.writeGoal k v).reg[j].goalPosition } := by
  rw [writeGoal_getElem]
  split
  next hkj => subst hkj; rfl
  next => rfl

/-- With only the core moving, the WRITE steps from step `k` on change nothing but goals (R192). -/
theorem run_writeSteps_frame {n : Nat} {k : Fin 12} (ha : s.alone) (hp : s.seq.phase = .write)
    (hk : s.seq.k.toNat = k.val) (hn : k.val + n = 11) :
    ∃ r : Vector Servo 12, (∀ j : Fin 12, r[j] = { s.reg[j] with goalPosition := r[j].goalPosition }) ∧
      runSteps (n + 1) s = .next
        { s with evt := none, bRdata := none, reg := r, seq := { s.seq with phase := .gather, k := 0 } } := by
  induction n generalizing s k with
  | zero =>
    have hstep := step_write ⟨alone.nextTurn ha, hp⟩ k hk
    rw [if_neg (by omega), beginStep_eq_of_alone ha] at hstep
    exact ⟨_, fun j => writeGoal_only_goals s k j _, runSteps_succ 0 hstep⟩
  | succ n ih =>
    have hstep := step_write ⟨alone.nextTurn ha, hp⟩ k hk
    rw [if_pos (by omega), beginStep_eq_of_alone ha] at hstep
    have hnext : (s.seq.k + 1).toNat = k.val + 1 := by bv_omega
    obtain ⟨r, hr, hrun⟩ := ih (k := ⟨k.val + 1, by omega⟩) (alone_of_step ha hstep) hp hnext
      (show k.val + 1 + n = 11 by omega)
    refine ⟨r, fun j => (hr j).trans ?_, (runSteps_succ _ hstep).trans hrun⟩
    exact congrArg (fun x : Servo => { x with goalPosition := r[j].goalPosition }) (writeGoal_only_goals s k j _)

/-! The reply frame (R86) -/

/-- The payload of the acknowledge frame: positions, loads, sensor words. -/
def replyPayload (reg : Vector Servo 12) (words : List Word) : List Byte :=
  (reg.toList.flatMap fun r => halfBytes r.presentPosition) ++ (reg.toList.flatMap fun r => halfBytes r.presentLoad)
    ++ words.flatMap wordBytes

theorem replyFrame_eq (reg : Vector Servo 12) (words : List Word) :
    replyFrame reg words = [0xFF, 0xFF] ++ ([0x01, 0x46, 0x00] ++ replyPayload reg words)
      ++ [compute ([0x01, 0x46, 0x00] ++ replyPayload reg words)] := rfl

theorem replyFrame_length (reg : Vector Servo 12) {words : List Word} (h : words.length = 5) :
    (replyFrame reg words).length = 74 := by
  simp [replyFrame_eq, replyPayload, List.length_flatMap, h]

/-- A reply tells of positions and loads, not of goals (R86). -/
theorem replyFrame_congr {reg reg' : Vector Servo 12} (words : List Word)
    (h : ∀ j : Fin 12, reg'[j].presentPosition = reg[j].presentPosition ∧ reg'[j].presentLoad = reg[j].presentLoad) :
    replyFrame reg' words = replyFrame reg words := by
  simp only [replyFrame_eq, replyPayload, toList_eq_finRange, List.flatMap_map, h]

/-! The 29 reads of GATHER -/

/-- The bytes that GATHER step `n` of a reply begun in `s` stores (R193). -/
def State.gatherPiece (s : State) (n : Nat) : List Byte :=
  if h : n < 12 then halfBytes s.reg[n].presentPosition
  else if h : n - 12 < 12 then halfBytes s.reg[n - 12].presentLoad
  else wordBytes (s.env.sensorFeed.getD (n - 24) (Config.sensorDraw (sensorOf (n - 24)) (s.draws + (n - 24))))

/-- The three kinds of GATHER step (R193). -/
theorem gatherIndex_cases (n : Nat) :
    (∃ j : Fin 12, n = j.val) ∨ (∃ j : Fin 12, n = 12 + j.val) ∨ ∃ m, n = 24 + m := by
  by_cases h12 : n < 12
  · exact .inl ⟨⟨n, h12⟩, rfl⟩
  · by_cases h24 : n < 24
    · exact .inr (.inl ⟨⟨n - 12, by omega⟩, show n = 12 + (n - 12) by omega⟩)
    · exact .inr (.inr ⟨n - 24, by omega⟩)

theorem gatherPiece_position (s : State) (j : Fin 12) : s.gatherPiece j.val = halfBytes s.reg[j].presentPosition :=
  dif_pos j.isLt

theorem gatherPiece_load (s : State) (j : Fin 12) : s.gatherPiece (12 + j.val) = halfBytes s.reg[j].presentLoad := by
  unfold State.gatherPiece
  rw [dif_neg (by omega), dif_pos (by omega)]
  simp

theorem gatherPiece_sensor (s : State) (m : Nat) :
    s.gatherPiece (24 + m) = wordBytes (s.env.sensorFeed.getD m (Config.sensorDraw (sensorOf m) (s.draws + m))) := by
  unfold State.gatherPiece
  rw [dif_neg (by omega), dif_neg (by omega), Nat.add_sub_cancel_left]

theorem gatherPiece_length (s : State) (n : Nat) : (s.gatherPiece n).length = if n < 24 then 2 else 4 := by
  rcases gatherIndex_cases n with ⟨j, rfl⟩ | ⟨j, rfl⟩ | ⟨m, rfl⟩
  · rw [gatherPiece_position, if_pos (by omega), halfBytes_length]
  · rw [gatherPiece_load, if_pos (by omega), halfBytes_length]
  · rw [gatherPiece_sensor, if_neg (by omega), wordBytes_length]

/-- The bytes that the reads of GATHER leave in `tx_buf` are the payload of the reply (R86, R193). -/
theorem flatMap_gatherPiece (s : State) :
    (List.range 29).flatMap s.gatherPiece = replyPayload s.reg s.sensorWords := by
  unfold replyPayload
  rw [toList_eq_finRange]
  rfl

/-- What the first `n` GATHER steps of a reply begun in `s` leave, but for the sequencer: the bytes they read stand in
`tx_buf` from address 5 on, and reads 24 on have used up a sensor draw each. -/
structure State.Gathered (s : State) (n : Nat) (t : State) : Prop where
  reg : t.reg = s.reg
  env : t.env = { s.env with sensorFeed := s.env.sensorFeed.drop (n - 24) }
  draws : t.draws = s.draws + (n - 24)
  events : t.events = s.events
  sent : t.sent = s.sent
  canonical : t.txBuf.wf = true
  stored : t.txBuf.slice 5 (2 * n + 2 * (n - 24)) = (List.range n).flatMap s.gatherPiece

theorem gathered_zero (h : s.txBuf.wf = true) : s.Gathered 0 s := ⟨rfl, rfl, rfl, rfl, rfl, h, rfl⟩

theorem State.Gathered.alone {n : Nat} (h : s.Gathered n t) (ha : s.alone) : t.alone := by
  unfold State.alone
  rw [h.env]
  exact ha

/-- Reads 0 to 23 use up no draw. -/
theorem State.Gathered.noDraw {n : Nat} (h : s.Gathered n t) (hn : n < 24) :
    { s.env with sensorFeed := s.env.sensorFeed.drop (n + 1 - 24) } = t.env ∧ s.draws + (n + 1 - 24) = t.draws := by
  rw [h.env, h.draws, show n + 1 - 24 = n - 24 by omega]
  exact ⟨rfl, rfl⟩

/-- Reads 24 on use up one draw each. -/
theorem State.Gathered.oneDraw {n : Nat} (h : s.Gathered n t) (hn : 24 ≤ n) :
    { s.env with sensorFeed := s.env.sensorFeed.drop (n + 1 - 24) } =
        { t.env with sensorFeed := t.env.sensorFeed.tail } ∧
      s.draws + (n + 1 - 24) = t.draws + 1 := by
  rw [h.env, h.draws, List.tail_drop, show n + 1 - 24 = n - 24 + 1 by omega]
  exact ⟨rfl, rfl⟩

/-- Sensor read `m` returns word `m` of the draws that were next when the reply began. -/
theorem State.Gathered.sensor_word {m : Nat} (h : s.Gathered (24 + m) t) :
    t.sensorValue (sensorOf m) = s.env.sensorFeed.getD m (Config.sensorDraw (sensorOf m) (s.draws + m)) := by
  rw [sensorValue_eq, h.env, h.draws, Nat.add_sub_cancel_left]
  simp [List.headD_eq_head?_getD, List.getD_eq_getElem?_getD]

/-- The next read of GATHER: its bytes go right behind those stored before. -/
theorem State.Gathered.gatherField_eq {n : Nat} (h : s.Gathered n t) (hk : t.seq.k.toNat = n) :
    gatherField t =
      { t with
        txBuf := t.txBuf.storeBytes (5 + (2 * n + 2 * (n - 24))) (s.gatherPiece n)
        env := { s.env with sensorFeed := s.env.sensorFeed.drop (n + 1 - 24) }
        draws := s.draws + (n + 1 - 24) } := by
  rcases gatherIndex_cases n with ⟨j, rfl⟩ | ⟨j, rfl⟩ | ⟨m, rfl⟩
  · obtain ⟨henv, hdraws⟩ := h.noDraw (by omega)
    rw [gatherField_position j hk, gatherPiece_position, ← h.reg, henv, hdraws,
      show 5 + (2 * j.val + 2 * (j.val - 24)) = 5 + 2 * j.val by omega]
    rfl
  · obtain ⟨henv, hdraws⟩ := h.noDraw (by omega)
    rw [gatherField_load j hk, gatherPiece_load, ← h.reg, henv, hdraws,
      show 5 + (2 * (12 + j.val) + 2 * (12 + j.val - 24)) = 29 + 2 * j.val by omega]
    rfl
  · obtain ⟨henv, hdraws⟩ := h.oneDraw (by omega)
    rw [gatherField_sensor m hk, gatherPiece_sensor, ← h.sensor_word, henv, hdraws,
      show 5 + (2 * (24 + m) + 2 * (24 + m - 24)) = 53 + 4 * m by omega]
    rfl

theorem State.Gathered.succ {n : Nat} (h : s.Gathered n t) (hk : t.seq.k.toNat = n) :
    s.Gathered (n + 1) (gatherField t) := by
  rw [h.gatherField_eq hk]
  refine ⟨h.reg, rfl, rfl, h.events, h.sent, Memory.wf_storeBytes _ _ h.canonical, ?_⟩
  have hlen : 2 * (n + 1) + 2 * (n + 1 - 24) = 2 * n + 2 * (n - 24) + (s.gatherPiece n).length := by
    rw [gatherPiece_length]
    split <;> omega
  rw [hlen, Memory.slice_storeBytes _ h.canonical, h.stored, List.range_succ, List.flatMap_append]
  simp

/-- With only the core moving, one GATHER step more; after step 28 SEAL follows. -/
theorem State.Gathered.step {n : Nat} (h : s.Gathered n t) (ha : s.alone) (hp : t.seq.phase = .gather)
    (hk : t.seq.k.toNat = n) (hn : n < 29) :
    ∃ u, step t = .next u ∧ s.Gathered (n + 1) u ∧
      u.seq = if n < 28 then { t.seq with k := t.seq.k + 1 } else { t.seq with phase := .seal } := by
  have ht : t.alone := h.alone ha
  have hg := State.Gathered.succ (t := t.beginStep) { h with env := (Env.useTurn_alone ht.1 ht.2).trans h.env } hk
  have hseq : (gatherField t.beginStep).seq = t.seq := by
    obtain ⟨_, _, _, hseq, _⟩ := gatherField_frame t.beginStep (hk.trans_lt hn)
    exact hseq
  refine ⟨_, step_gather ⟨alone.nextTurn ht, hp⟩ (hk.trans_lt hn), ?_⟩
  rw [hk]
  split
  · exact ⟨{ hg with }, by rw [State.nextK_seq, hseq]⟩
  · exact ⟨{ hg with }, by rw [State.setPhase_seq, hseq]⟩

/-- With only the core moving, the first `n` GATHER steps, SEAL not reached yet. -/
theorem run_gatherSteps (ha : s.alone) (hwf : s.txBuf.wf = true) (hp : s.seq.phase = .gather) (hk : s.seq.k = 0)
    {n : Nat} (hn : n ≤ 28) :
    ∃ t, runSteps n s = .next t ∧ s.Gathered n t ∧ t.seq = { s.seq with k := BitVec.ofNat 7 n } := by
  induction n with
  | zero => exact ⟨s, rfl, gathered_zero hwf, by rw [show BitVec.ofNat 7 0 = s.seq.k from hk.symm]⟩
  | succ n ih =>
    obtain ⟨t, hrun, ht, hseq⟩ := ih (by omega)
    obtain ⟨u, hstep, hu, hseq'⟩ := ht.step ha (by rw [hseq, hp])
      (by rw [hseq]; exact Nat.mod_eq_of_lt (by omega)) (by omega)
    rw [if_pos (by omega), hseq] at hseq'
    refine ⟨u, (runSteps_add n 1 hrun).trans (runSteps_succ 0 hstep), hu, hseq'.trans ?_⟩
    simp [BitVec.ofNat_add]

/-- With only the core moving, the 29 GATHER steps (R193). -/
theorem run_gather (ha : s.alone) (hwf : s.txBuf.wf = true) (hp : s.seq.phase = .gather) (hk : s.seq.k = 0) :
    ∃ t, runSteps 29 s = .next t ∧ s.Gathered 29 t ∧ t.seq = { s.seq with phase := .seal, k := 28 } := by
  obtain ⟨t, hrun, ht, hseq⟩ := run_gatherSteps ha hwf hp hk (le_refl 28)
  obtain ⟨u, hstep, hu, hseq'⟩ := ht.step ha (by rw [hseq, hp]) (by rw [hseq]; rfl) (by omega)
  rw [hseq] at hseq'
  exact ⟨u, (runSteps_add 28 1 hrun).trans (runSteps_succ 0 hstep), hu, hseq'⟩

/-! From SEAL to IDLE -/

theorem seal_completes_replyFrame (h : s.coreIn .seal) (hwf : s.txBuf.wf = true) {reg : Vector Servo 12}
    {words : List Word} (hpayload : s.txBuf.slice 5 68 = replyPayload reg words) :
    ∃ m : Memory, m.slice 0 74 = replyFrame reg words ∧
      step s = .next { s.beginStep with txBuf := m, seq := { s.seq with phase := .emit, k := 0 } } := by
  obtain ⟨t, hstep, ht, hheader, hsum, hkept⟩ := sealStepCompletesReply s h hwf
  refine ⟨t.txBuf, ?_, hstep.trans (congrArg _ ht)⟩
  have hbody : t.txBuf.slice 5 68 = s.txBuf.slice 5 68 := Memory.slice_congr fun i hi => hkept _ (by omega) (by omega)
  rw [Memory.slice_succ, Memory.slice_add _ 0 5 68, hheader, Nat.zero_add, hbody, hsum, hpayload, replyFrame_eq]
  rfl

/-- With only the core moving and `tx_ready = 1`, the EMIT steps from step `k` on send `tx_buf` to its end (R196). -/
theorem run_emitSteps {n : Nat} (ha : s.alone) (hr : s.env.txReady = true) (hp : s.seq.phase = .emit)
    (hk : s.seq.k.toNat + n = 73) :
    runSteps (n + 1) s = .next
      { s with
        evt := none
        bRdata := none
        sent := s.sent ++ s.txBuf.slice s.seq.k.toNat (n + 1)
        seq := { s.seq with phase := .clear, k := 73 } } := by
  induction n generalizing s with
  | zero =>
    have hk' : s.seq.k = 73 := by bv_omega
    have hstep := step_emit_ready ⟨alone.nextTurn ha, hp⟩ (by omega) hr
    rw [if_neg (by omega), beginStep_eq_of_alone ha] at hstep
    rw [runSteps_succ 0 hstep, ← hk']
    rfl
  | succ n ih =>
    have hstep := step_emit_ready ⟨alone.nextTurn ha, hp⟩ (by omega) hr
    rw [if_pos (by omega), beginStep_eq_of_alone ha] at hstep
    have hnext : (s.seq.k + 1).toNat = s.seq.k.toNat + 1 := by bv_omega
    have hrun := ih (alone_of_step ha hstep) hr hp (show (s.seq.k + 1).toNat + n = 73 by omega)
    rw [runSteps_succ _ hstep, hrun, show n + 1 + 1 = 1 + (n + 1) by omega, Memory.slice_add _ _ 1, ← hnext,
      ← List.append_assoc]
    rfl

/-- With only the core moving and `tx_ready = 1`, a reply from SEAL on: its frame is completed and sent, and
CLEAR follows (R194 to R197). -/
theorem run_sealed (ha : s.alone) (hr : s.env.txReady = true) (hwf : s.txBuf.wf = true) (hp : s.seq.phase = .seal)
    {c : OutcomeCode} (hc : s.seq.outcome = some c) {reg : Vector Servo 12} {words : List Word}
    (hpayload : s.txBuf.slice 5 68 = replyPayload reg words) :
    ∃ m : Memory, runSteps 76 s = .next
      { s with
        dec := Decoder.reset
        txBuf := m
        evt := some ⟨c, s.seq.arg⟩
        bRdata := none
        events := s.events ++ [⟨c, s.seq.arg⟩]
        sent := s.sent ++ replyFrame reg words
        seq := { s.seq with phase := .idle, k := 0, outcome := none, arg := 0 } } := by
  obtain ⟨m, hframe, hseal⟩ := seal_completes_replyFrame ⟨alone.nextTurn ha, hp⟩ hwf hpayload
  rw [beginStep_eq_of_alone ha] at hseal
  have hemit := run_emitSteps (n := 73) (alone_of_step ha hseal) hr rfl rfl
  have hclear := step_clear_alone (runSteps_alone_settings (alone_of_step ha hseal) hemit).1 rfl hc
  exact ⟨m, hframe ▸ (runSteps_succ 75 hseal).trans ((runSteps_add 74 1 hemit).trans (runSteps_succ 0 hclear))⟩

/-- A control frame's transaction from GATHER on: one reply, one outcome, and IDLE again (R190). -/
theorem run_reply (ha : s.alone) (hr : s.env.txReady = true) (hwf : s.txBuf.wf = true) (hp : s.seq.phase = .gather)
    (hk : s.seq.k = 0) {c : OutcomeCode} (hc : s.seq.outcome = some c) :
    ∃ t, runSteps 105 s = .next t ∧ t.seq.phase = .idle ∧ t.dec.state = .awaitSync1 ∧
      t.sent = s.sent ++ replyFrame s.reg s.sensorWords ∧ t.events = s.events ++ [⟨c, s.seq.arg⟩] ∧
      t.env.rxLine = s.env.rxLine ∧ t.reg = s.reg := by
  obtain ⟨g, hgather, hg, hseq⟩ := run_gather ha hwf hp hk
  obtain ⟨m, hsealed⟩ := run_sealed (c := c) (hg.alone ha) (by rw [hg.env]; exact hr) hg.canonical (by rw [hseq])
    (by rw [hseq]; exact hc) (hg.stored.trans (flatMap_gatherPiece s))
  refine ⟨_, (runSteps_add 29 76 hgather).trans hsealed, rfl, rfl, ?_⟩
  simp only [hg.sent, hg.events, hg.env, hg.reg, hseq, and_self]

end Reply

/-- Settles O36: WRITE leaves all that the reply tells of, and the reply is the same from GATHER on. -/
theorem transactionSendsOneReply : Obligations.TransactionSendsOneReply := by
  unfold Obligations.TransactionSendsOneReply
  intro s c ha hr hwf hk hc hp
  have hlength : (replyFrame s.reg s.sensorWords).length = 74 := replyFrame_length _ (by simp [State.sensorWords])
  rcases hp with hp | hp
  · obtain ⟨r, hframe, hwrite⟩ := run_writeSteps_frame (n := 11) (k := 0) ha hp (by rw [hk]; rfl) rfl
    obtain ⟨u, hu, _, hgoals⟩ := run_writeSteps (n := 11) (k := 0) ha hp (by rw [hk]; rfl) rfl
      (fun j hj => absurd hj j.val.not_lt_zero)
    obtain rfl := Host.Outcome.next.inj (hwrite.symm.trans hu)
    have hua := (runSteps_alone_settings ha hwrite).1
    obtain ⟨t, hrun, hidle, hdec, hsent, hevents, hline, hreg⟩ := run_reply hua hr hwf rfl rfl hc
    have hreply : replyFrame r s.sensorWords = replyFrame s.reg s.sensorWords :=
      replyFrame_congr _ fun j => by rw [hframe j]; exact ⟨rfl, rfl⟩
    rw [if_pos hp]
    refine ⟨t, (runSteps_add 12 105 hwrite).trans hrun, hidle, hdec, hsent.trans (congrArg _ hreply), hlength, hevents,
      hline, fun k => ?_⟩
    rw [if_pos hp, hreg]
    exact hgoals k
  · obtain ⟨t, hrun, hidle, hdec, hsent, hevents, hline, hreg⟩ := run_reply ha hr hwf hp hk hc
    have hne : s.seq.phase ≠ .write := by simp [hp]
    rw [if_neg hne]
    refine ⟨t, hrun, hidle, hdec, hsent, hlength, hevents, hline, fun k => ?_⟩
    rw [if_neg hne, hreg]

end Sys2Proof.Machine
end

section
/-! PROOFS. The family of 60_exceptions.md: the order of the VALIDATE checks (R234), no step stops (R233), which outcomes
arise where (R220, R221, R235), and the turns of the environment and their schedule (R240 to R245). -/

namespace Sys2Proof.Machine

/-! ### The turns of the environment (R240, R242, R244, R245) -/

/-- Settles O52: such a turn is one named update of the environment, on the state as the step begins. -/
theorem environmentTurns : Obligations.EnvironmentTurns := by
  unfold Obligations.EnvironmentTurns
  intro s
  exact ⟨fun _ => step_of_turn, fun _ => step_of_turn, fun _ => step_of_turn, fun _ => step_of_turn⟩

/-! ### The order of the VALIDATE checks (R234) -/

section Validate

variable {s : State}

/-- A buffered control frame of length 26 with the right checksum: VALIDATE dispatches its goals (R162). -/
theorem validateStep_goals (hcap : s.dec.lenReg.toNat + 4 ≤ s.params.cap)
    (hsum : s.rxBuf.read (s.dec.lenReg.toNat + 3) = ~~~ s.dec.acc) (hinstr : s.rxBuf.read 4 = 0x01)
    (hlen : s.dec.lenReg = 26) :
    ∃ g, validateStep s = .next (dispatchGoals g s) ∧ ∀ k : Fin 12,
      g[k].toNat = (s.rxBuf.read (5 + 2 * k.val)).toNat + 256 * (s.rxBuf.read (6 + 2 * k.val)).toNat := by
  have hpayload : (s.rxBuf.slice 5 (s.dec.lenReg.toNat - 2)).length = 24 := by simp [hlen]
  have hbody := instrOfBody_goals hpayload
  refine ⟨_, ?_, goal_toNat_of_slice hbody⟩
  rw [validateStep_match hcap hsum, hinstr, hbody]
  rfl

/-- The range check finds an index when a goal is above 1023 (R166). -/
theorem firstOutOfRange_ne_none_iff {g : Vector Half 12} :
    firstOutOfRange g ≠ none ↔ ∃ k : Fin 12, 1023 < g[k].toNat := by
  rw [ne_eq, firstOutOfRange_eq_none]
  simp [BitVec.le_def]

theorem failure_code_mismatch (hsum : s.rxBuf.read (s.dec.lenReg.toNat + 3) ≠ ~~~ s.dec.acc) :
    s.failure.code = .checksumMismatch := by
  rw [State.failure, if_pos hsum]

theorem failure_code_unknown (hsum : s.rxBuf.read (s.dec.lenReg.toNat + 3) = ~~~ s.dec.acc)
    (hinstr : s.rxBuf.read 4 ≠ 0x01) : s.failure.code = .unknownInstruction := by
  rw [State.failure, if_neg (not_not.mpr hsum), if_pos hinstr]

theorem failure_code_length (hsum : s.rxBuf.read (s.dec.lenReg.toNat + 3) = ~~~ s.dec.acc)
    (hinstr : s.rxBuf.read 4 = 0x01) : s.failure.code = .invalidPayloadLength := by
  rw [State.failure, if_neg (not_not.mpr hsum), if_neg (not_not.mpr hinstr)]

end Validate

/-- Settles O28: each check is reached when those before it pass, and the last of them asks for the range. -/
theorem validateChecksInOrder : Obligations.ValidateChecksInOrder := by
  unfold Obligations.ValidateChecksInOrder
  intro s h h2 hcap goal
  rw [step_validate h]
  have hfails := validateStep_failure (s := s.beginStep) h2 hcap
  rcases ne_or_eq (s.rxBuf.read (s.dec.lenReg.toNat + 3)) (~~~ s.dec.acc) with hsum | hsum
  · refine ⟨_, hfails (.inl hsum), ?_⟩
    rw [if_pos hsum]
    exact ⟨congrArg some (failure_code_mismatch (s := s.beginStep) hsum), rfl⟩
  rcases ne_or_eq (s.rxBuf.read 4) 0x01 with hinstr | hinstr
  · refine ⟨_, hfails (.inr (.inl hinstr)), ?_⟩
    rw [if_neg (not_not.mpr hsum), if_pos hinstr]
    exact ⟨congrArg some (failure_code_unknown (s := s.beginStep) hsum hinstr), rfl⟩
  rcases ne_or_eq s.dec.lenReg 26 with hlen | hlen
  · refine ⟨_, hfails (.inr (.inr hlen)), ?_⟩
    rw [if_neg (not_not.mpr hsum), if_neg (not_not.mpr hinstr), if_pos hlen]
    exact ⟨congrArg some (failure_code_length (s := s.beginStep) hsum hinstr), rfl⟩
  obtain ⟨g, hstep, hgoal⟩ := validateStep_goals (s := s.beginStep) hcap hsum hinstr hlen
  have hrange : (∃ k, 1023 < goal k) ↔ firstOutOfRange g ≠ none :=
    (exists_congr fun k => iff_of_eq (congrArg (1023 < ·) (hgoal k).symm)).trans firstOutOfRange_ne_none_iff.symm
  refine ⟨_, hstep, ?_⟩
  rw [if_neg (not_not.mpr hsum), if_neg (not_not.mpr hinstr), if_neg (not_not.mpr hlen)]
  by_cases hreject : s.params.policy = .reject ∧ ∃ k, 1023 < goal k
  · obtain ⟨k, hk⟩ := Option.ne_none_iff_exists'.mp (hrange.mp hreject.2)
    rw [if_pos hreject, dispatchGoals_rejected (s := s.beginStep) hreject.1 hk]
    exact ⟨rfl, rfl⟩
  · have haccept : s.params.policy = .clamp ∨ firstOutOfRange g = none := by
      cases hpolicy : s.params.policy with
      | clamp => exact .inl rfl
      | reject => exact .inr (not_not.mp fun hnone => hreject ⟨hpolicy, hrange.mpr hnone⟩)
    rw [if_neg hreject, dispatchGoals_accepted (s := s.beginStep) haccept, acceptGoals_eq]
    cases hadmin : s.env.adminEnable <;> simp [hadmin]

/-! ### No step stops (R233) -/

section NeverStops

variable {s : State}

/-- In VALIDATE the frame's length keeps the checksum inside `rx_buf`, and every instruction has a meaning. -/
theorem State.Inv.validateStep_next (i : s.Inv) (hp : s.seq.phase = .validate) : ∃ t, validateStep s = .next t := by
  obtain ⟨_, hcap⟩ := i.lengthRange (.inr (i.done_of_busy (by simp [hp])))
  by_cases hsum : s.rxBuf.read (s.dec.lenReg.toNat + 3) = ~~~ s.dec.acc
  · rw [validateStep_match hcap hsum]
    rcases exec_cases (instrOfBody (s.rxBuf.read 4) (s.rxBuf.slice 5 (s.dec.lenReg.toNat - 2))) s with
      ⟨_, _, _, he⟩ | ⟨_, _, ⟨_, he⟩ | ⟨_, he⟩⟩ <;> exact ⟨_, he⟩
  · exact ⟨_, validateStep_mismatch hcap hsum⟩

theorem gatherStep_next (hk : s.seq.k.toNat < 29) : ∃ t, gatherStep s = .next t := ⟨_, if_pos hk⟩

theorem emitStep_next (hk : s.seq.k.toNat < 74) : ∃ t, emitStep s = .next t := by
  cases hr : s.env.txReady with
  | false => exact ⟨s, emitStep_wait hk hr⟩
  | true =>
    rcases (Nat.le_of_lt_succ hk).lt_or_eq with hmore | hlast
    · exact ⟨_, emitStep_more hmore hr⟩
    · exact ⟨_, emitStep_last hlast hr⟩

theorem State.Inv.coreStep_next (i : s.Inv) : ∃ t, coreStep s = .next t := by
  have hk := i.indexRange
  match hp : s.seq.phase with
  | .idle => rw [coreStep_idle hp]; exact i.idleStep_next
  | .validate => rw [coreStep_validate hp]; exact i.validateStep_next hp
  | .write =>
    rw [hp] at hk
    exact ⟨_, (coreStep_write hp).trans (writeStep_at ⟨s.seq.k.toNat, of_decide_eq_true hk⟩ rfl)⟩
  | .gather => rw [hp] at hk; rw [coreStep_gather hp]; exact gatherStep_next (of_decide_eq_true hk)
  | .seal => exact ⟨_, coreStep_seal hp⟩
  | .emit => rw [hp] at hk; rw [coreStep_emit hp]; exact emitStep_next (of_decide_eq_true hk)
  | .clear => exact ⟨_, coreStep_clear hp⟩

theorem State.Inv.timeoutStep_next (i : s.Inv) : ∃ t, timeoutStep s = .next t := by
  by_cases hp : s.seq.phase = .idle
  · obtain ⟨u, hu⟩ := i.idleStep_next
    exact ⟨_, timeoutStep_idle hp hu⟩
  · exact ⟨s, timeoutStep_busy hp⟩

end NeverStops

/-- Settles O42: only a core or a timeout turn can stop, and the invariant keeps every index such a turn uses in range. -/
theorem invariantStepsNeverStop : Obligations.InvariantStepsNeverStop := by
  unfold Obligations.InvariantStepsNeverStop
  intro s i
  have ib : s.beginStep.Inv := i.congr rfl rfl rfl rfl rfl rfl
  cases hu : s.nextTurn <;> rw [step_of_turn hu]
  case core => exact ib.coreStep_next
  case timeout => exact ib.timeoutStep_next
  all_goals exact ⟨_, rfl⟩

/-! ### Which outcomes arise where (R220, R221, R235) -/

/-- From `s` to `t` the outcome port and the trace stay as they are. -/
def State.Silent (s t : State) : Prop := t.evt = s.evt ∧ t.events = s.events

/-- From `s` to `t` one outcome goes to the outcome port and behind the trace (R221). -/
def State.Emits (s : State) (e : Event) (t : State) : Prop := t.evt = some e ∧ t.events = s.events ++ [e]

/-- From `s` to `t` one of the decoder's outcomes is emitted, or none (R235). -/
def State.DecoderEmits (s t : State) : Prop :=
  s.Silent t ∨ ∃ e : Event, transactionOutcome e.code = false ∧ s.Emits e t

theorem transactionOutcome_eq_true (c : OutcomeCode) : transactionOutcome c = true ↔
    c ∈ [OutcomeCode.controlApplied, .controlNotApplied, .checksumMismatch, .unknownInstruction, .invalidPayloadLength,
      .positionOutOfRange] := by
  cases c <;> decide

theorem transactionOutcome_eq_false (c : OutcomeCode) : transactionOutcome c = false ↔
    c ∈ [OutcomeCode.headerRejectedId, .headerRejectedLong, .headerRejectedShort, .frameTruncated] := by
  cases c <;> decide

section Outcomes

variable {s t : State} {b : Byte}

theorem State.Silent.decoderEmits {u : State} (h : s.Silent u) (ht : u.DecoderEmits t) : s.DecoderEmits t := by
  obtain ⟨hevt, hevents⟩ := h
  unfold State.DecoderEmits State.Silent State.Emits at ht ⊢
  rwa [hevt, hevents] at ht

/-- A byte step emits only a header rejection, and that leaves the decoder in AwaitSync1. -/
theorem byteStep_outcome (h : byteStep b s = .next t) :
    s.Silent t ∨ (t.dec = Decoder.reset ∧ ∃ e : Event, transactionOutcome e.code = false ∧ s.Emits e t) := by
  rcases byteStep_cases h with ⟨_, rfl⟩ | ⟨_, rfl⟩ | ⟨_, rfl⟩ | ⟨_, rfl⟩ | ⟨_, h⟩ | ⟨_, rfl⟩
  · rcases byteAwaitSync1_cases b s with ⟨_, e⟩ | ⟨_, e⟩ <;> rw [e] <;> exact .inl ⟨rfl, rfl⟩
  · rcases byteAwaitSync2_cases b s with ⟨_, e⟩ | ⟨_, e⟩ <;> rw [e] <;> exact .inl ⟨rfl, rfl⟩
  · rcases byteAwaitId_cases b s with ⟨_, e⟩ | ⟨_, e⟩ <;> rw [e]
    · exact .inr ⟨rfl, _, rfl, rfl, rfl⟩
    · exact .inl ⟨rfl, rfl⟩
  · rcases byteAwaitLength_cases b s with ⟨_, e⟩ | ⟨_, e⟩ | ⟨_, _, e⟩ <;> rw [e]
    · exact .inr ⟨rfl, _, rfl, rfl, rfl⟩
    · exact .inr ⟨rfl, _, rfl, rfl, rfl⟩
    · exact .inl ⟨rfl, rfl⟩
  · rcases byteAccumulate_cases h with ⟨_, ⟨_, rfl⟩ | ⟨_, rfl⟩⟩ <;> exact .inl ⟨rfl, rfl⟩
  · exact .inl ⟨rfl, rfl⟩

theorem idleStep_outcome (h : idleStep s = .next t) :
    s.Silent t ∨ (t.dec = Decoder.reset ∧ ∃ e : Event, transactionOutcome e.code = false ∧ s.Emits e t) := by
  rcases idleStep_cases h with rfl | ⟨_, _, _, _, hb⟩
  · exact .inl ⟨rfl, rfl⟩
  · exact byteStep_outcome (s := s.popRx) hb

theorem timeoutIfIdle_outcome (s : State) : s.DecoderEmits (timeoutIfIdle s) := by
  rcases timeoutIfIdle_cases s with e | ⟨_, _, e | ⟨_, e⟩⟩ <;> rw [e]
  · exact .inl ⟨rfl, rfl⟩
  · exact .inl ⟨rfl, rfl⟩
  · exact .inr ⟨_, rfl, rfl, rfl⟩

/-- A timeout emits at most once: a byte that was rejected before it has left the decoder in AwaitSync1 (R235). -/
theorem timeoutStep_outcome (h : timeoutStep s = .next t) : s.Silent t ∨ (s.seq.phase = .idle ∧ s.DecoderEmits t) := by
  rcases timeoutStep_cases h with ⟨_, rfl⟩ | ⟨hp, u, hu, rfl⟩
  · exact .inl ⟨rfl, rfl⟩
  · refine .inr ⟨hp, ?_⟩
    rcases idleStep_outcome hu with hs | ⟨hdec, he⟩
    · exact hs.decoderEmits (timeoutIfIdle_outcome u)
    · rw [(timeoutIfIdle_cases u).resolve_right fun ⟨hscan, _⟩ => hscan (by rw [hdec]; rfl)]
      exact .inr he

theorem coreStep_outcome (h : coreStep s = .next t) :
    s.Silent t ∨ (s.seq.phase = .idle ∧ s.DecoderEmits t) ∨
      (s.seq.phase = .clear ∧ ∃ c, s.seq.outcome = some c ∧ s.Emits ⟨c, s.seq.arg⟩ t) := by
  rcases coreStep_cases h with ⟨hp, h⟩ | ⟨_, h⟩ | ⟨_, h⟩ | ⟨_, h⟩ | ⟨_, rfl⟩ | ⟨_, h⟩ | ⟨hp, rfl⟩
  · exact .inr (.inl ⟨hp, (idleStep_outcome h).imp_right And.right⟩)
  · rcases validateStep_cases h with ⟨_, _, _, rfl⟩ | ⟨_, _, ⟨_, rfl⟩ | ⟨_, rfl⟩⟩ <;> exact .inl ⟨rfl, rfl⟩
  · obtain ⟨_, _, ⟨_, rfl⟩ | ⟨_, rfl⟩⟩ := writeStep_cases h <;> exact .inl ⟨rfl, rfl⟩
  · obtain ⟨hk, ht⟩ := gatherStep_cases h
    obtain ⟨_, _, _, _, _, _, hevt, hevents, _⟩ := gatherField_frame s hk
    rcases ht with ⟨_, rfl⟩ | ⟨_, rfl⟩ <;> exact .inl ⟨hevt, hevents⟩
  · exact .inl ⟨rfl, rfl⟩
  · obtain ⟨_, ⟨_, rfl⟩ | ⟨_, _, rfl⟩ | ⟨_, _, rfl⟩⟩ := emitStep_cases h <;> exact .inl ⟨rfl, rfl⟩
  · cases ho : s.seq.outcome with
    | none => rw [clearStep_none ho]; exact .inl ⟨rfl, rfl⟩
    | some c => rw [clearStep_some ho]; exact .inr (.inr ⟨hp, c, rfl, rfl, rfl⟩)

/-- Everything a step can do to the outcome port and the trace. -/
theorem step_outcome (h : step s = .next t) :
    (t.evt = none ∧ t.events = s.events) ∨
    (s.seq.phase = .idle ∧ (s.nextTurn = .core ∨ s.nextTurn = .timeout) ∧
      ∃ e : Event, transactionOutcome e.code = false ∧ s.Emits e t) ∨
    (s.coreIn .clear ∧ ∃ c, s.seq.outcome = some c ∧ s.Emits ⟨c, s.seq.arg⟩ t) := by
  rcases step_cases h with
    ⟨hu, h⟩ | ⟨_, _, rfl⟩ | ⟨_, _, rfl⟩ | ⟨hu, h⟩ | ⟨r, _, rfl⟩ | ⟨_, _, rfl⟩ | ⟨_, _, rfl⟩ | ⟨_, rfl⟩
  · rcases coreStep_outcome h with hs | ⟨hp, hs | he⟩ | ⟨hp, he⟩
    · exact .inl hs
    · exact .inl hs
    · exact .inr (.inl ⟨hp, .inl hu, he⟩)
    · exact .inr (.inr ⟨⟨hu, hp⟩, he⟩)
  · exact .inl ⟨rfl, rfl⟩
  · exact .inl ⟨rfl, rfl⟩
  · rcases timeoutStep_outcome h with hs | ⟨hp, hs | he⟩
    · exact .inl hs
    · exact .inl hs
    · exact .inr (.inl ⟨hp, .inr hu, he⟩)
  · obtain ⟨_, _, _, _, _, _, hevt, hevents, _⟩ := busAccess_frame s.beginStep r
    exact .inl ⟨hevt, hevents⟩
  · exact .inl ⟨rfl, rfl⟩
  · exact .inl ⟨rfl, rfl⟩
  · exact .inl ⟨rfl, rfl⟩

end Outcomes

/-- Settles O48: a step emits nothing, one decoder outcome, or the outcome register. -/
theorem oneOutcomePerStep : Obligations.OneOutcomePerStep := by
  unfold Obligations.OneOutcomePerStep
  intro s t h
  rcases step_outcome h with ⟨hevt, hevents⟩ | ⟨_, _, _, _, hevt, hevents⟩ | ⟨_, _, _, hevt, hevents⟩ <;>
    simp [hevt, hevents]

/-- Settles O49: the invariant keeps the outcome register at CLEAR a transaction's. -/
theorem outcomesByOrigin : Obligations.OutcomesByOrigin := by
  unfold Obligations.OutcomesByOrigin
  intro s t e i h he
  rcases step_outcome h with ⟨hevt, _⟩ | ⟨hp, hu, e', hcode, hevt, _⟩ | ⟨hc, c, hreg, hevt, _⟩
  · rw [hevt] at he
    cases he
  · obtain rfl := Option.some.inj (hevt.symm.trans he)
    exact .inl ⟨hp, hu, (transactionOutcome_eq_false _).mp hcode⟩
  · obtain rfl := Option.some.inj (hevt.symm.trans he)
    have hset := i.outcomeSet
    rw [hc.2, hreg] at hset
    exact .inr ⟨hc, hreg, rfl, (transactionOutcome_eq_true c).mp hset⟩

/-! ### The schedule (R240, R242) -/

/-- The turns to come are the script's, then those of the later schedule. -/
theorem Env.turnAt_eq (e : Env) (n : Nat) : e.turnAt n =
    if h : n < e.script.length then e.script[n] else (Schedule.rest^[n - e.script.length] e.later).turn := by
  induction n generalizing e with
  | zero =>
    unfold Env.turnAt Env.nextTurn
    cases e.script <;> rfl
  | succ n ih =>
    unfold Env.turnAt
    rw [ih]
    unfold Env.useTurn
    cases e.script <;> simp

theorem Schedule.iterate_rest_quiet (m : Nat) : Schedule.rest^[m] .quiet = .quiet := Function.iterate_fixed rfl m

theorem Schedule.iterate_rest_free (k m : Nat) : Schedule.rest^[m] (.free k) = .free (k + m) := by
  induction m with
  | zero => rfl
  | succ m ih => rw [Function.iterate_succ_apply', ih]; rfl

/-- A cycle after its first turn is the cycle of the same turns, rotated by one. -/
theorem Schedule.rest_cycle (u : Turn) (us : List Turn) :
    ∃ v vs, Schedule.rest (.cycle u us) = .cycle v vs ∧ v :: vs = (u :: us).rotate 1 := by
  cases us with
  | nil => exact ⟨u, [], rfl, (List.rotate_singleton u 1).symm⟩
  | cons v vs => exact ⟨v, vs ++ [u], rfl, rfl⟩

theorem Schedule.iterate_rest_cycle (u : Turn) (us : List Turn) (m : Nat) :
    ∃ v vs, Schedule.rest^[m] (.cycle u us) = .cycle v vs ∧ v :: vs = (u :: us).rotate m := by
  induction m with
  | zero => exact ⟨u, us, rfl, (List.rotate_zero _).symm⟩
  | succ m ih =>
    obtain ⟨v, vs, hrest, hrotate⟩ := ih
    obtain ⟨w, ws, hrest', hrotate'⟩ := Schedule.rest_cycle v vs
    refine ⟨w, ws, ?_, ?_⟩
    · rw [Function.iterate_succ_apply', hrest, hrest']
    · rw [hrotate', hrotate, List.rotate_rotate]

theorem Schedule.turn_iterate_rest_cycle (u : Turn) (us : List Turn) (m : Nat) :
    (Schedule.rest^[m] (.cycle u us)).turn = (u :: us).getD (m % (us.length + 1)) .core := by
  obtain ⟨v, vs, hrest, hrotate⟩ := Schedule.iterate_rest_cycle u us m
  have hv : some v = (u :: us)[m % (us.length + 1)]? := by
    have h : 0 < (u :: us).length := Nat.succ_pos _
    rw [← Nat.zero_add m, ← List.length_cons (a := u), ← List.getElem?_rotate h, ← hrotate]
    rfl
  rw [hrest, List.getD_eq_getElem?_getD, ← hv]
  rfl

/-- Settles O53: a step uses up one turn, and a schedule's rest is quiet again, a rotated cycle, or the free turns from the
next number on. -/
theorem stepsFollowSchedule : Obligations.StepsFollowSchedule := by
  unfold Obligations.StepsFollowSchedule
  refine ⟨fun s t h n => turnAt_of_step h n, fun e n => ?_⟩
  rw [Env.turnAt_eq]
  split
  · rfl
  · cases e.later with
    | quiet => exact congrArg Schedule.turn (Schedule.iterate_rest_quiet _)
    | cycle u us => exact Schedule.turn_iterate_rest_cycle u us _
    | free k => exact congrArg Schedule.turn (Schedule.iterate_rest_free k _)

/-! ### Unending noise (R242, R134 (a)) -/

/-- In AwaitSync1 a byte other than `0xFF` that is offered and then taken leaves the block and the trace as they were. -/
theorem run_noiseByte {s : State} {b : Byte} (hp : s.seq.phase = .idle) (hd : s.dec.state = .awaitSync1)
    (hl : s.env.rxLine = []) (hb : b ≠ 0xFF) (h0 : s.env.turnAt 0 = .offerByte b) (h1 : s.env.turnAt 1 = .core) :
    ∃ t, runSteps 2 s = .next t ∧ (∀ n, t.env.turnAt n = s.env.turnAt (n + 2)) ∧ t.env.rxLine = [] ∧ t.dec = s.dec ∧
      t.rxBuf = s.rxBuf ∧ t.seq = s.seq ∧ t.events = s.events := by
  have hoffer : step s = .next (s.beginStep.offerByte b) := step_of_turn h0
  have hturn : (s.beginStep.offerByte b).nextTurn = .core := (turnAt_of_step hoffer 0).trans h1
  have hline : (s.beginStep.offerByte b).env.rxLine = [b] := by simp [hl]
  have htake := byteInAwaitSync1 _ b [] ⟨hturn, hp, hline⟩ hd
  rw [if_neg hb] at htake
  refine ⟨_, (runSteps_succ 1 hoffer).trans (runSteps_succ 0 htake), fun n => ?_, rfl, rfl, rfl, rfl, rfl⟩
  rw [turnAt_of_step htake, turnAt_of_step hoffer]

/-- Settles O55: byte by byte, each leaves the next one the decoder in AwaitSync1 and the schedule two turns on. -/
theorem unendingNoiseIsTaken : Obligations.UnendingNoiseIsTaken := by
  unfold Obligations.UnendingNoiseIsTaken
  intro noise n
  induction n generalizing noise with
  | zero =>
    intro s _ _ hl _ _
    exact ⟨s, rfl, hl, rfl, rfl, rfl, rfl⟩
  | succ n ih =>
    intro s hp hd hl hnoise hturns
    obtain ⟨h0, h1⟩ := hturns 0
    obtain ⟨u, hrun, hsched, hline, hdec, hrx, hseq, hevents⟩ := run_noiseByte hp hd hl (hnoise 0) h0 h1
    obtain ⟨t, hrun', hline', hdec', hrx', hseq', hevents'⟩ :=
      ih (fun m => noise (m + 1)) u (by rw [hseq, hp]) (by rw [hdec, hd]) hline (fun m => hnoise (m + 1)) fun m => by
        rw [hsched, hsched]
        exact hturns (m + 1)
    refine ⟨t, ?_, hline', hdec'.trans hdec, hrx'.trans hrx, hseq'.trans hseq, hevents'.trans hevents⟩
    rw [Nat.mul_succ, Nat.add_comm, runSteps_add 2 (2 * n) hrun, hrun']

end Sys2Proof.Machine
end

section
/-! PROOFS. The family of 70_reset_and_hazards.md: a reset in mid-transaction (R263), a length byte raised by one
(R271), and a transmit port that stalls in EMIT (R276). -/

namespace Sys2Proof.Machine

/-- Settles O2: a reset leaves the spec's reset values in the block, and the two traces, which are outside the block,
alone. -/
theorem resetAbandonsTransaction : Obligations.ResetAbandonsTransaction := by
  unfold Obligations.ResetAbandonsTransaction
  intro s hturn _
  have hreset := afterRst_atReset s.beginStep
  exact ⟨s.beginStep.afterRst, step_of_turn hturn, hreset.phase, congrArg Decoder.state hreset.dec, rfl, rfl, rfl,
    hreset.goals⟩

/-- Settles O6: the length byte moves the sum up by one, and the sync byte, which is `-1` modulo 256, moves it back. -/
theorem raisedLengthPassesVerify : Obligations.RaisedLengthPassesVerify := by
  unfold Obligations.RaisedLengthPassesVerify
  intro id len chk body h
  have hsum : sum8 (id :: (len + 1) :: body ++ [chk] ++ [Config.sync]) = sum8 (id :: len :: body ++ [chk]) := by
    have hwrap : (1 : Byte) + Config.sync = 0 := by decide
    simp only [List.cons_append, sum8_cons, sum8_append, sum8_nil]
    linear_combination hwrap
  rw [verify_iff_sum8 (by simp)] at h ⊢
  rw [hsum, h]

/-! ### A transmit port that stalls (R276) -/

/-- From `s` to `t` nothing moves in EMIT: the transaction, the reply and what has left the block stay as they are, the
sink still gives the same `tx_ready`, and the bytes `offered` wait behind those that waited. -/
structure State.Stalls (s t : State) (offered : List Byte) : Prop where
  seq : t.seq = s.seq
  dec : t.dec = s.dec
  txBuf : t.txBuf = s.txBuf
  sent : t.sent = s.sent
  events : t.events = s.events
  txReady : t.env.txReady = s.env.txReady
  rxLine : t.env.rxLine = s.env.rxLine ++ offered

section Stall

variable {s t u : State}

theorem State.Stalls.refl (s : State) : s.Stalls s [] := ⟨rfl, rfl, rfl, rfl, rfl, rfl, (List.append_nil _).symm⟩

theorem State.Stalls.trans {as bs : List Byte} (h : s.Stalls u as) (h' : u.Stalls t bs) : s.Stalls t (as ++ bs) where
  seq := h'.seq.trans h.seq
  dec := h'.dec.trans h.dec
  txBuf := h'.txBuf.trans h.txBuf
  sent := h'.sent.trans h.sent
  events := h'.events.trans h.events
  txReady := h'.txReady.trans h.txReady
  rxLine := by rw [h'.rxLine, h.rxLine, List.append_assoc]

theorem State.Stalls.txData {as : List Byte} (h : s.Stalls t as) : t.txData = s.txData := by
  unfold State.txData
  rw [h.txBuf, h.seq]

/-- The turn used up and the one-step outputs taken back are no part of the transaction. -/
theorem stalls_beginStep (s : State) : s.Stalls s.beginStep [] :=
  ⟨rfl, rfl, rfl, rfl, rfl, rfl, (List.append_nil _).symm⟩

theorem stalls_busAccess (s : State) (r : BusRequest) : s.Stalls (s.busAccess r) [] := by
  obtain ⟨_, hdec, _, hseq, htx, henv, _, hevents, hsent⟩ := busAccess_frame s r
  exact ⟨hseq, hdec, htx, hsent, hevents, by rw [henv], by rw [henv, List.append_nil]⟩

/-- With `tx_ready = 0` in EMIT no turn but a reset or a rise of `tx_ready` moves the transaction: the core waits, a
timeout is ignored, and every other agent acts outside it. -/
theorem step_stalls (hp : s.seq.phase = .emit) (hk : s.seq.k.toNat < 74) (hr : s.env.txReady = false)
    (hrise : s.nextTurn ≠ .setTxReady true) (hreset : s.nextTurn ≠ .reset) :
    ∃ t, step s = .next t ∧ s.Stalls t s.nextTurn.offered := by
  have hbegin := stalls_beginStep s
  cases hu : s.nextTurn with
  | core => exact ⟨_, (step_emit ⟨hu, hp⟩).trans (emitStep_wait (s := s.beginStep) hk hr), hbegin⟩
  | offerByte b => exact ⟨_, step_of_turn hu, rfl, rfl, rfl, rfl, rfl, rfl, rfl⟩
  | setTxReady v =>
    obtain rfl : v = false := by simpa [hu] using hrise
    exact ⟨_, step_of_turn hu, { hbegin with txReady := hr.symm }⟩
  | timeout =>
    have hbusy : s.beginStep.seq.phase ≠ .idle := by simp [hp]
    exact ⟨_, (step_of_turn hu).trans (timeoutStep_busy hbusy), hbegin⟩
  | bus r => exact ⟨_, step_of_turn hu, hbegin.trans (stalls_busAccess _ r)⟩
  | setAdminEnable v => exact ⟨_, step_of_turn hu, { hbegin with }⟩
  | fixSensor w => exact ⟨_, step_of_turn hu, { hbegin with }⟩
  | reset => exact absurd hu hreset

/-- A stalled EMIT stalls for as long as no turn raises `tx_ready` or resets. -/
theorem run_stalls {n : Nat} (hp : s.seq.phase = .emit) (hk : s.seq.k.toNat < 74) (hr : s.env.txReady = false)
    (hturns : ∀ m, m < n → s.env.turnAt m ≠ .setTxReady true ∧ s.env.turnAt m ≠ .reset) :
    ∃ t, runSteps n s = .next t ∧ s.Stalls t (s.env.offeredIn n) := by
  induction n generalizing s with
  | zero => exact ⟨s, rfl, .refl s⟩
  | succ n ih =>
    obtain ⟨hrise, hreset⟩ := hturns 0 n.succ_pos
    obtain ⟨u, hstep, hu⟩ := step_stalls hp hk hr hrise hreset
    obtain ⟨t, hrun, ht⟩ := ih (s := u) (by rw [hu.seq, hp]) (by rw [hu.seq]; exact hk) (by rw [hu.txReady, hr])
      fun m hm => by
        rw [turnAt_of_step hstep]
        exact hturns (m + 1) (Nat.succ_lt_succ hm)
    rw [runSteps_succ n hstep, offeredIn_of_step hstep]
    exact ⟨t, hrun, hu.trans ht⟩

end Stall

/-- Settles O34: the run stalls, and the ports show EMIT and the byte of the same index of the same buffer. -/
theorem transmitHang : Obligations.TransmitHang := by
  unfold Obligations.TransmitHang
  intro n s hp hk hr hturns
  obtain ⟨t, hrun, h⟩ := run_stalls hp hk hr hturns
  have ht : t.seq.phase = .emit := by rw [h.seq, hp]
  exact ⟨t, hrun, h.seq, h.sent, h.events, h.dec, h.rxLine, h.txData, by simp [State.txValid, ht],
    by simp [State.rxReady, ht]⟩

end Sys2Proof.Machine
end
